-- ==== Sys2Proof/Word.lean ====
section
/-! DEFINITION. The word types of the engine: whole bytes (R68), unsigned throughout (R11). -/

namespace Sys2Proof

/-- A byte: bit 7 is the most significant (R11). -/
abbrev Byte := BitVec 8

/-- A 24-bit block address as a frame carries it (R9 `LBA_BITS`, R94). -/
abbrev Lba := BitVec 24

/-- A 5-bit opcode (R9 `OPC_BITS`, R93). -/
abbrev Opc := BitVec 5

/-- A 3-bit device ID (R9 `ID_BITS`, R92). -/
abbrev DeviceId := BitVec 3

end Sys2Proof
end

