-- ==== Sys2Proof/Config.lean ====
section
/-! DEFINITION. The parameters of R10, constant while the machine runs (R38), as one structure, so that every
statement ranges over every configuration; and the free values, which no definition fixes.
The default values stand in Machine/Defaults.lean. -/

namespace Sys2Proof

/-- The completion condition of the status handshake, `STATUS_WAIT` (R193, D15). -/
inductive StatusWait where
  | level   -- wait until CS is sampled deasserted (the default)
  | edge    -- wait until CS is sampled asserted, then until it is sampled deasserted
  deriving DecidableEq, Repr, Inhabited

/-- The electrical level that means `asserted` on a line (R10, D9, D39). Read by no rule. -/
inductive ActiveLevel where
  | low
  | high
  deriving DecidableEq, Repr, Inhabited

/-- The thirteen opcode numerals `OPC_*` (R98, D2). -/
structure OpcodeMap where
  testReady    : Opc
  requestSense : Opc
  formatDrive  : Opc
  verifyTrack  : Opc
  formatTrack  : Opc
  readBlock    : Opc
  writeBlock   : Opc
  seek         : Opc
  correction   : Opc
  inquiry      : Opc
  modeSelect   : Opc
  modeSense    : Opc
  ship         : Opc
  deriving DecidableEq, Repr, Inhabited

/-- The assigned opcodes, in the order of the table of R98. -/
def OpcodeMap.assigned (m : OpcodeMap) : List Opc :=
  [m.testReady, m.requestSense, m.formatDrive, m.verifyTrack, m.formatTrack, m.readBlock, m.writeBlock,
   m.seek, m.correction, m.inquiry, m.modeSelect, m.modeSense, m.ship]

/-- The electrical polarities of R10: DRQ is low-asserted in the source and has no field. -/
structure Polarity where
  cs  : ActiveLevel
  a1  : ActiveLevel
  ack : ActiveLevel
  irq : ActiveLevel
  led : ActiveLevel
  deriving DecidableEq, Repr, Inhabited

/-- The parameters of R10. The two pulse widths are held so that both are positive and the receive pulse is the
longer one by construction (R146, R123): see `sendPulseCycles` and `recvPulseCycles`. -/
structure Config where
  deviceId        : DeviceId
  opc             : OpcodeMap
  msPageByte      : Fin 6
  ms0Template     : Vector Byte 16
  ms4Template     : Vector Byte 24
  ms4Heads        : Byte
  inqVs           : Vector Byte 3
  inqVendor       : Vector Byte 8
  inqProduct1     : Vector Byte 8
  inqProduct2     : Vector Byte 8
  inqRevision     : Vector Byte 4
  sendPulsePred   : Nat
  recvPulseExcess : Nat
  recoveryDelay   : Nat
  wdgPeriod       : Nat
  statusWait      : StatusWait
  bootInit        : Bool
  polarity        : Polarity
  deriving DecidableEq, Repr, Inhabited

/-- `SEND_PULSE_CYCLES` (R10): a positive number of core cycles (R123). -/
def Config.sendPulseCycles (c : Config) : Nat := c.sendPulsePred + 1

/-- `RECV_PULSE_CYCLES` (R10): greater than `SEND_PULSE_CYCLES` (R146). -/
def Config.recvPulseCycles (c : Config) : Nat := c.sendPulseCycles + c.recvPulseExcess + 1

/-- What a configuration must meet: the thirteen opcodes are pairwise distinct (R98, U21), the page byte of
Mode-sense is one of the frame bytes 1 to 3 (R94, R96), and the head count is not zero (R266 divides by it). -/
def Config.ok (c : Config) : Bool :=
  decide (c.ms4Heads ≠ 0) && ((decide (1 ≤ c.msPageByte.val) && decide (c.msPageByte.val ≤ 3)) &&
    decide c.opc.assigned.Nodup)

/-- One answer of the storage collaborator, to whichever call is made next (R76, R205): `ok` answers `init`,
`readBlock` and `writeBlock`; `capacity` answers `capacityInBlocks`; `data` is what a `readBlock` leaves in
`BUF[0..511]` (the block when it succeeds, any bytes when it fails: D31). -/
structure CollReply where
  ok       : Bool
  capacity : Nat
  data     : Vector Byte 512
  deriving DecidableEq, Repr, Inhabited

/-- FREE VALUE: the n-th collaborator answer that no list in the state supplies (R76: an oracle). -/
opaque Config.freeReply : Nat → CollReply

/-- FREE VALUE: the level of the data lines at the n-th sample taken while the engine itself drives them
(U7: contended, any value). -/
opaque Config.contendedData : Nat → Byte

/-- FREE VALUE (OPEN in R10, D8): the device ID of the default configuration. -/
opaque Config.openDeviceId : DeviceId

/-- FREE VALUES (OPEN in R10, D22): the identification strings of the default configuration. -/
opaque Config.openVendor : Vector Byte 8
opaque Config.openProduct1 : Vector Byte 8
opaque Config.openProduct2 : Vector Byte 8
opaque Config.openRevision : Vector Byte 4

/-- FREE VALUES (OPEN in R10, D25, D26): timing numbers that no rule reads. -/
opaque Config.openSendPulsePred : Nat
opaque Config.openRecvPulseExcess : Nat
opaque Config.openRecoveryDelay : Nat
opaque Config.openWdgPeriod : Nat

/-- FREE VALUE (OPEN, D39): the polarity of the indicator, which no rule reads. -/
opaque Config.openLedPolarity : ActiveLevel

end Sys2Proof
end

