-- ==== Sys2Proof/Machine/Defaults.lean ====
section
/-! DEFINITION. The literals of R9 and the default configuration of R10: one named constant each, so that a
correction is one edit (93_implementation_defined.md, Part 4). -/

namespace Sys2Proof

/-- `BLOCK_SIZE` (R9). -/
def blockSize : Nat := 512

/-- `BUF_CAP` (R10, D23). -/
def bufCap : Nat := 512

/-- `STATUS_OK` (R9, R102). -/
def statusOk : Byte := 0x00

/-- `STATUS_ERR` (R9, R102). -/
def statusErr : Byte := 0x02

/-- `RETRY_BOUND` (R9, R209): total attempts, the first included. -/
def retryBound : Nat := 5

/-- `RS_FLAG` (R9, R261). -/
def rsFlag : Byte := 0x80

/-- `MS0_LEN` and `MS4_LEN` (R9). -/
def ms0Len : Nat := 16
def ms4Len : Nat := 24

/-- The natural length of the identification record (R263, C1). -/
def inqLen : Nat := 36

/-- Bytes 0 to 4 of the identification record (R9, R263). -/
def inqHeader : List Byte := [0x00, 0x00, 0x01, 0x00, 0x1F]

/-- The Mode-sense sub-page numbers (R264). -/
def page0 : Byte := 0x00
def page4 : Byte := 0x04

/-- The default opcode numerals (R98). PRESUMED: from general knowledge (D2, G1). -/
def OpcodeMap.default : OpcodeMap where
  testReady    := 0x00
  requestSense := 0x03
  formatDrive  := 0x04
  verifyTrack  := 0x05
  formatTrack  := 0x06
  readBlock    := 0x08
  writeBlock   := 0x0A
  seek         := 0x0B
  correction   := 0x0D
  inquiry      := 0x12
  modeSelect   := 0x15
  modeSense    := 0x1A
  ship         := 0x1B

/-- The default of `MS0_TEMPLATE` (R265); bytes 5 to 7 are overwritten. PRESUMED (D6, G4). -/
def defaultMs0Template : Vector Byte 16 :=
  #v[0x00, 0x0E, 0x00, 0x08, 0x00, 0x00, 0x00, 0x00, 0x00, 0x00, 0x02, 0x00, 0x00, 0x00, 0x00, 0x00]

/-- The default of `MS4_TEMPLATE` (R266); bytes 2 to 5 are overwritten. PRESUMED (D7, G5). -/
def defaultMs4Template : Vector Byte 24 :=
  #v[0x04, 0x16, 0x00, 0x00, 0x00, 0x00, 0x00, 0x00, 0x00, 0x00, 0x00, 0x00,
     0x00, 0x00, 0x00, 0x00, 0x00, 0x00, 0x00, 0x00, 0x00, 0x00, 0x00, 0x00]

/-- The default configuration of R10. What R10 calls OPEN is a free value; the rest are its default values. -/
def Config.default : Config where
  deviceId        := Config.openDeviceId
  opc             := OpcodeMap.default
  msPageByte      := 2
  ms0Template     := defaultMs0Template
  ms4Template     := defaultMs4Template
  ms4Heads        := 128
  inqVs           := #v[0x00, 0x00, 0x00]
  inqVendor       := Config.openVendor
  inqProduct1     := Config.openProduct1
  inqProduct2     := Config.openProduct2
  inqRevision     := Config.openRevision
  sendPulsePred   := Config.openSendPulsePred
  recvPulseExcess := Config.openRecvPulseExcess
  recoveryDelay   := Config.openRecoveryDelay
  wdgPeriod       := Config.openWdgPeriod
  statusWait      := .level
  bootInit        := false
  polarity        := { cs := .low, a1 := .low, ack := .low, irq := .low, led := Config.openLedPolarity }

end Sys2Proof
end

