-- ==== Sys2Proof/Syntax.lean ====
section
/-! DEFINITION. The instructions of the engine: the command frames of R98, one constructor for each row of
spec/opcode_table.json. -/

namespace Sys2Proof

/-- The operand part of a frame: its bytes 1 to 5 (R91). A command reads the fields its rule names and ignores the
others (R97); they are kept so that no bit of a frame is lost. -/
structure Args where
  lba  : Lba
  len  : Byte
  rsvd : Byte
  deriving DecidableEq, Repr

/-- The six frame registers `CF[0..5]` (R21), also the six bytes of a frame on the wire (R90). -/
structure Frame where
  b0 : Byte
  b1 : Byte
  b2 : Byte
  b3 : Byte
  b4 : Byte
  b5 : Byte
  deriving DecidableEq, Repr

/-- The commands of R98. `unsupported` is "any other opcode" (R100, R240, R267) and keeps the opcode it was. -/
inductive Instr where
  | testReady    (a : Args)
  | requestSense (a : Args)
  | formatDrive  (a : Args)
  | verifyTrack  (a : Args)
  | formatTrack  (a : Args)
  | readBlock    (a : Args)
  | writeBlock   (a : Args)
  | seek         (a : Args)
  | correction   (a : Args)
  | inquiry      (a : Args)
  | modeSelect   (a : Args)
  | modeSense0   (a : Args)
  | modeSense4   (a : Args)
  | ship         (a : Args)
  | unsupported  (opc : Opc) (a : Args)
  deriving DecidableEq, Repr

/-- The opcode field of a command under a configuration (R98). -/
def Instr.opcode (c : Config) : Instr → Opc
  | .testReady _     => c.opc.testReady
  | .requestSense _  => c.opc.requestSense
  | .formatDrive _   => c.opc.formatDrive
  | .verifyTrack _   => c.opc.verifyTrack
  | .formatTrack _   => c.opc.formatTrack
  | .readBlock _     => c.opc.readBlock
  | .writeBlock _    => c.opc.writeBlock
  | .seek _          => c.opc.seek
  | .correction _    => c.opc.correction
  | .inquiry _       => c.opc.inquiry
  | .modeSelect _    => c.opc.modeSelect
  | .modeSense0 _    => c.opc.modeSense
  | .modeSense4 _    => c.opc.modeSense
  | .ship _          => c.opc.ship
  | .unsupported o _ => o

/-- The operand part of a command. -/
def Instr.args : Instr → Args
  | .testReady a     => a
  | .requestSense a  => a
  | .formatDrive a   => a
  | .verifyTrack a   => a
  | .formatTrack a   => a
  | .readBlock a     => a
  | .writeBlock a    => a
  | .seek a          => a
  | .correction a    => a
  | .inquiry a       => a
  | .modeSelect a    => a
  | .modeSense0 a    => a
  | .modeSense4 a    => a
  | .ship a          => a
  | .unsupported _ a => a

end Sys2Proof
end

