-- ==== Sys2Proof/WellFormed.lean ====
section
/-! DEFINITION. Which instructions a frame can carry, under a configuration: the sub-page of a Mode-sense is the one
its mnemonic names, and an unsupported command is none of the others (R98, R99, R100). -/

namespace Sys2Proof

/-- Frame byte `k` as the operands give it, for `k` in 1..5 (R91); byte 0 holds no operand. -/
def Args.byte (a : Args) (k : Fin 6) : Byte :=
  match k with
  | 0 => 0
  | 1 => a.lba.extractLsb' 16 8
  | 2 => a.lba.extractLsb' 8 8
  | 3 => a.lba.extractLsb' 0 8
  | 4 => a.len
  | 5 => a.rsvd

/-- The Mode-sense sub-page the operands carry (R96). -/
def Args.page (c : Config) (a : Args) : Byte := a.byte c.msPageByte

/-- Well-formedness of an instruction (R98 to R100). -/
def Instr.wf (c : Config) : Instr → Bool
  | .modeSense0 a    => decide (a.page c = page0)
  | .modeSense4 a    => decide (a.page c = page4)
  | .unsupported o a =>
      !decide (o ∈ c.opc.assigned) ||
        (decide (o = c.opc.modeSense) && (!decide (a.page c = page0) && !decide (a.page c = page4)))
  | .testReady _     => true
  | .requestSense _  => true
  | .formatDrive _   => true
  | .verifyTrack _   => true
  | .formatTrack _   => true
  | .readBlock _     => true
  | .writeBlock _    => true
  | .seek _          => true
  | .correction _    => true
  | .inquiry _       => true
  | .modeSelect _    => true
  | .ship _          => true

end Sys2Proof
end

