-- ==== Sys2Proof/Decode.lean ====
section
/-! DEFINITION. The frame assembler's fields and the command decoder (R22, R90 to R101, R168), and the encoder,
written from the same field table (R91). -/

namespace Sys2Proof

/-- Read frame register `CF[k]` (R12). -/
def Frame.get (f : Frame) (k : Fin 6) : Byte :=
  match k with
  | 0 => f.b0
  | 1 => f.b1
  | 2 => f.b2
  | 3 => f.b3
  | 4 => f.b4
  | 5 => f.b5

/-- Write frame register `CF[k]` (R12). -/
def Frame.set (f : Frame) (k : Fin 6) (v : Byte) : Frame :=
  match k with
  | 0 => { f with b0 := v }
  | 1 => { f with b1 := v }
  | 2 => { f with b2 := v }
  | 3 => { f with b3 := v }
  | 4 => { f with b4 := v }
  | 5 => { f with b5 := v }

/-- The `ID` field of a first wire byte (R91). -/
def idField (b0 : Byte) : DeviceId := b0.extractLsb' 5 3

/-- The `OPC` field of a first byte (R91, R93). -/
def opcField (b0 : Byte) : Opc := b0.extractLsb' 0 5

/-- What `CF[0]` keeps of the first wire byte: the opcode, zero-extended (R93, R162, D13). -/
def storedOpcode (raw : Byte) : Byte := (opcField raw).setWidth 8

/-- `OPC = CF[0][4:0]` (R22). -/
def Frame.opc (f : Frame) : Opc := opcField f.b0

/-- `LBA = CF[1] ++ CF[2] ++ CF[3]`, `CF[1]` most significant (R22, R64, R94). -/
def Frame.lba (f : Frame) : Lba := (f.b1 ++ f.b2 ++ f.b3 : BitVec (8 + 8 + 8))

/-- `LEN = CF[4]` (R22, R95). -/
def Frame.len (f : Frame) : Byte := f.b4

/-- `PAGE = CF[MS_PAGE_BYTE]` (R22, R96). -/
def Frame.page (c : Config) (f : Frame) : Byte := f.get c.msPageByte

/-- The operand part of a frame. -/
def Frame.args (f : Frame) : Args := { lba := f.lba, len := f.len, rsvd := f.b5 }

/-- The command of an assembled frame: first by `OPC`, then, for Mode-sense only, by `PAGE` (R99). Every frame is
some command: what no row of R98 names is `unsupported` (R100, R167). -/
def decodeFrame (c : Config) (f : Frame) : Instr :=
  if f.opc = c.opc.testReady then .testReady f.args
  else if f.opc = c.opc.requestSense then .requestSense f.args
  else if f.opc = c.opc.formatDrive then .formatDrive f.args
  else if f.opc = c.opc.verifyTrack then .verifyTrack f.args
  else if f.opc = c.opc.formatTrack then .formatTrack f.args
  else if f.opc = c.opc.readBlock then .readBlock f.args
  else if f.opc = c.opc.writeBlock then .writeBlock f.args
  else if f.opc = c.opc.seek then .seek f.args
  else if f.opc = c.opc.correction then .correction f.args
  else if f.opc = c.opc.inquiry then .inquiry f.args
  else if f.opc = c.opc.modeSelect then .modeSelect f.args
  else if f.opc = c.opc.modeSense then
    if f.page c = page0 then .modeSense0 f.args
    else if f.page c = page4 then .modeSense4 f.args
    else .unsupported f.opc f.args
  else if f.opc = c.opc.ship then .ship f.args
  else .unsupported f.opc f.args

/-- Why bytes on the wire are no command of this device. -/
inductive DecodeError where
  | wrongLength   -- not exactly six bytes (R90, R101)
  | foreignId     -- the ID field is not `DEVICE_ID` (R92): no encoding of this device
  deriving DecidableEq, Repr

/-- The command that the bytes of a frame on the wire are, byte 0 first (R90, R92). Total on any bytes. -/
def decode (c : Config) : List Byte → Except DecodeError Instr
  | [b0, b1, b2, b3, b4, b5] =>
      if idField b0 = c.deviceId then .ok (decodeFrame c ⟨storedOpcode b0, b1, b2, b3, b4, b5⟩)
      else .error .foreignId
  | _ => .error .wrongLength

/-- The frame registers that hold a command: the opcode in `CF[0]`, then the operand bytes (R91, R93). -/
def encodeFrame (c : Config) (i : Instr) : Frame where
  b0 := (i.opcode c).setWidth 8
  b1 := i.args.lba.extractLsb' 16 8
  b2 := i.args.lba.extractLsb' 8 8
  b3 := i.args.lba.extractLsb' 0 8
  b4 := i.args.len
  b5 := i.args.rsvd

/-- The six bytes of a command on the wire: byte 0 is `ID ++ OPC` (R91). -/
def encode (c : Config) (i : Instr) : List Byte :=
  let f := encodeFrame c i
  [(c.deviceId ++ i.opcode c : BitVec (3 + 5)), f.b1, f.b2, f.b3, f.b4, f.b5]

/-- The frame registers after reception of the 48-bit word `W = B0 ++ … ++ B5`, `B0` in bits [47:40] (R90), the ID
having matched (R162): the table's numbering. A row of fewer bits is the leading part of `W`, the rest zero. -/
def frameOfWord (nbits w : Nat) : Frame :=
  let W : BitVec 48 := BitVec.ofNat 48 (w * 2 ^ (48 - nbits))
  { b0 := storedOpcode (W.extractLsb' 40 8), b1 := W.extractLsb' 32 8, b2 := W.extractLsb' 24 8,
    b3 := W.extractLsb' 16 8, b4 := W.extractLsb' 8 8, b5 := W.extractLsb' 0 8 }

/-- The instruction the decoder reads from a word of spec/opcode_table.json, under the default configuration. A word
longer than a frame is none. -/
def decodeTableWord (nbits w : Nat) : Option Instr :=
  if nbits ≤ 48 then some (decodeFrame Config.default (frameOfWord nbits w)) else none

end Sys2Proof
end

