-- ==== Sys2Proof/Machine/State.lean ====
section
/-! DEFINITION. Everything the spec gives the machine (R20 to R38), as plain data: the engine's own state, and beside
it the environment it meets (the peer's lines, the moves and answers still to come) and the record of what it did. -/

namespace Sys2Proof.Machine

/-- The logical level of a control line (R32); electrical polarity is read by no rule (D9). -/
inductive Level where
  | deasserted
  | asserted
  deriving DecidableEq, Repr, Inhabited

/-- The driver of the data lines, `D_out` (R31). -/
inductive DataDrive where
  | released
  | drive (v : Byte)
  deriving DecidableEq, Repr, Inhabited

/-- The driver of the DMA request line, `DRQ_out` (R31). -/
inductive DrqDrive where
  | released
  | low
  deriving DecidableEq, Repr, Inhabited

/-- The driver of the interrupt line, `IRQ_out` (R31). -/
inductive IrqDrive where
  | released
  | asserted
  deriving DecidableEq, Repr, Inhabited

/-- The lines the peer drives (R32): `CS`, `A1`, `ACK` and the data lines `D_in`. -/
structure Pins where
  cs   : Level
  a1   : Level
  ack  : Level
  data : Byte
  deriving DecidableEq, Repr, Inhabited

/-- What the environment does between two atomic steps of the engine (R8): the peer moves its lines, or the watchdog
resets the system (R336, D25). -/
inductive EnvEvent where
  | peer (p : Pins)
  | watchdog
  deriving DecidableEq, Repr, Inhabited

/-- The waits of the engine (R339, R381): each ends at the first sample that finds the level. -/
inductive WaitKind where
  | ackAsserted    -- `Send` and `Receive` (R141, R142)
  | csAsserted     -- a frame byte's strobe (R165), and the first half of the status wait under `EDGE` (R193)
  | csDeasserted   -- the status wait (R193)
  deriving DecidableEq, Repr, Inhabited

/-- A set of output lines, the operand of `Release` (R121). -/
structure LineSet where
  d   : Bool
  drq : Bool
  irq : Bool
  deriving DecidableEq, Repr, Inhabited

/-- The error kinds of R320. A kind is stored in no register (R328); the record keeps it as a ghost. -/
inductive ErrorKind where
  | unsupportedCommand
  | range
  | storageTransient
  | storageFatal
  | notReady
  deriving DecidableEq, Repr, Inhabited

/-- One entry of the record of what the engine did: one for each atomic step of R8 that acts on a line, a flag, the
watchdog or the collaborator, and for each sample that a rule uses (the tokens of 95_test_vectors.md). -/
inductive Event where
  | wdgService
  | sampledLines (cs a1 : Level)
  | sampledData (v : Byte)
  | droveData (v : Byte)
  | pulsedDrq (cycles : Nat)
  | assertedIrq
  | released (l : LineSet)
  | waited (w : WaitKind)
  | ledSet (b : Bool)
  | guardSet (b : Bool)
  | collInit (ok : Bool)
  | collCapacity (n : Nat)
  | collRead (i : Nat) (ok : Bool)
  | collWrite (i : Nat) (data : List Byte) (ok : Bool)
  | delayed (n : Nat)
  | raised (k : ErrorKind)
  | wasReset
  deriving DecidableEq, Repr

/-- What follows a `Send` when its last acknowledge has come: the status, or the rest of a Read-block. -/
inductive AfterSend where
  | status
  | readLoop
  deriving DecidableEq, Repr, Inhabited

/-- The position inside `Dispatching` (R23): at the first line of the command, or in the acknowledge wait of byte `i`
of a `Send` of `n` bytes, or in that of byte `i` of a `Receive` (always of one block). -/
inductive Pos where
  | start
  | sendAck (i n : Nat) (next : AfterSend)
  | recvAck (i : Nat)
  deriving DecidableEq, Repr, Inhabited

/-- The position inside `SendingStatus` (R23, R193): which level the wait is for. -/
inductive StatusPos where
  | asserted
  | deasserted
  deriving DecidableEq, Repr, Inhabited

/-- `phase`, the engine's program counter (R23), with the position in its pseudocode. `boot` is the line
`if BOOT_INIT: Initialize()` of R371; `receivingBytes true` is in the strobe wait with IRQ asserted (R165). -/
inductive Phase where
  | boot
  | idle
  | addressMatch
  | receivingBytes (waiting : Bool)
  | complete
  | dispatching (p : Pos)
  | sendingStatus (p : StatusPos)
  deriving DecidableEq, Repr, Inhabited

/-- The TransferBuffer (R30, R60) as address and byte pairs, the addresses strictly rising, none of them holding what
an unlisted address reads as. -/
abbrev Memory := List Host.Cell

/-- What a byte of the TransferBuffer that nothing has written reads as. DESIGN CHOICE (log entry 4). -/
def Memory.unlisted : Byte := 0x00

/-- The canonical form of the TransferBuffer, every address below `BUF_CAP` (R60). -/
abbrev Memory.wf (m : Memory) : Prop :=
  m.Pairwise (fun x y => x.1 < y.1) ∧ ∀ x ∈ m, x.2 ≠ Memory.unlisted ∧ x.1 < bufCap

/-- The state of the machine. The fields from `cfg` to `statusDone` are the spec's (R10, R20); `pins`, `env` and
`replies` are the environment (R7, R36), `draws` and `log` the model's own. -/
structure State where
  cfg        : Config           -- the parameters of R10, constant (R38)
  phase      : Phase            -- R23
  cf         : Frame            -- R21
  bi         : Fin 6            -- R24
  blk        : Nat              -- R25
  cnt        : BitVec 8         -- R25
  rem        : Nat              -- R26
  led        : Bool             -- R27
  guard      : Bool             -- R27
  dsReady    : Bool             -- R28
  dsCapacity : BitVec 32        -- R29
  buf        : Memory           -- R30
  dOut       : DataDrive        -- R31
  drqOut     : DrqDrive         -- R31
  irqOut     : IrqDrive         -- R31
  statusDone : Bool             -- R33
  pins       : Pins             -- R32: the levels the peer drives now
  env        : List EnvEvent    -- what the environment does next, one event before each atomic step
  replies    : List CollReply   -- the collaborator's answers to come
  draws      : Nat              -- how many free values have been drawn
  log        : List Event       -- what the engine did, the latest first
  deriving DecidableEq, Repr

/-- Why a step stops with a fault. -/
inductive Fault where
  /-- Raised by `step` when the position is in the acknowledge wait of a `Send` of more than `BUF_CAP` bytes: the rest
  of the transfer would read buffer bytes that do not exist (R60). No run reaches such a position. Safe. -/
  | bufferAddress
  deriving DecidableEq, Repr

/-- Why a step is refused. -/
inductive Refusal where
  /-- Raised by `exec` for an instruction that has no meaning yet. None is left. Safe. -/
  | notModelled (mnemonic : String)
  /-- Raised by `step` when the configuration breaks R98 (opcodes not pairwise distinct: U21), R94/R96 (the page byte)
  or R266 (no heads). Safe. -/
  | badConfiguration
  deriving DecidableEq, Repr

/-- The peer's lines when nothing drives them: all deasserted, data 0. DESIGN CHOICE (log entry 3). -/
def Pins.quiet : Pins := { cs := .deasserted, a1 := .deasserted, ack := .deasserted, data := 0x00 }

/-- The machine right after power-on (R37, R371), with the default configuration. What the spec leaves unspecified
is zero: DESIGN CHOICE (log entry 2). The environment has nothing scheduled (log entry 3). -/
def State.reset : State where
  cfg        := Config.default
  phase      := .idle
  cf         := ⟨0, 0, 0, 0, 0, 0⟩
  bi         := 0
  blk        := 0
  cnt        := 0
  rem        := 0
  led        := false
  guard      := false
  dsReady    := false
  dsCapacity := 0
  buf        := []
  dOut       := .released
  drqOut     := .released
  irqOut     := .released
  statusDone := false
  pins       := Pins.quiet
  env        := []
  replies    := []
  draws      := 0
  log        := []

end Sys2Proof.Machine
end

