-- ==== Sys2Proof/Machine/Flags.lean ====
section
/-! DEFINITION. The one-bit flags (R27, R28, R33) and the status code they stand beside (R102): every write of a flag
goes through one of these. -/

namespace Sys2Proof.Machine

/-- Append an entry to the record. -/
def State.record (e : Event) (s : State) : State := { s with log := e :: s.log }

/-- `LED <- b` (R27). -/
def State.writeLed (b : Bool) (s : State) : State := State.record (.ledSet b) { s with led := b }

/-- `GUARD <- b` (R27, R74). -/
def State.writeGuard (b : Bool) (s : State) : State := State.record (.guardSet b) { s with guard := b }

/-- `STATUS_DONE <- b` (R33). -/
def State.writeStatusDone (b : Bool) (s : State) : State := { s with statusDone := b }

/-- `DS.ready <- b` (R28). -/
def State.writeReady (b : Bool) (s : State) : State := { s with dsReady := b }

/-- The status byte of an outcome: `STATUS_OK` or `STATUS_ERR` (R102, R191). -/
def statusCode (ok : Bool) : Byte := if ok then statusOk else statusErr

end Sys2Proof.Machine
end

