-- ==== Sys2Proof/Machine/Operands.lean ====
section
/-! DEFINITION. The operand forms: what a command reads of its frame and of DeviceState, the range check (R290), and
the bytes of the synthesized responses (R261, R263, R265, R266). -/

namespace Sys2Proof.Machine

/-- `LBA` as the index of the first block (R94). -/
def blockIndex (a : Args) : Nat := a.lba.toNat

/-- `LEN` as a count of blocks or bytes, zero meaning zero (R95). -/
def countOperand (a : Args) : Nat := a.len.toNat

/-- `RangeOK`: `LBA + LEN <= DS.capacity` in natural numbers (R290). -/
def rangeOk (a : Args) (s : State) : Bool := decide (blockIndex a + countOperand a ≤ s.dsCapacity.toNat)

/-- The recorded form of a reported capacity: `CAP_BITS` = 32 bits (R29, R206, U16). -/
def capacityOf (n : Nat) : BitVec 32 := BitVec.ofNat 32 n

/-- A 24-bit field, big-endian: bits [23:16], [15:8], [7:0] (R65). -/
def be24 (v : BitVec 32) : List Byte := [v.extractLsb' 16 8, v.extractLsb' 8 8, v.extractLsb' 0 8]

/-- `n <- max(LEN, 4)` of Request-Sense (R260). -/
def senseLength (len : Nat) : Nat := max len 4

/-- `RS(cap, n)` (R261), for `n >= 4`. -/
def senseResponse (cap : BitVec 32) (n : Nat) : List Byte :=
  rsFlag :: be24 cap ++ List.replicate (n - 4) 0x00

/-- `INQ_RECORD[0..35]` (R263). -/
def inquiryRecord (c : Config) : List Byte :=
  inqHeader ++ c.inqVs.toList ++ c.inqVendor.toList ++ c.inqProduct1.toList ++ c.inqProduct2.toList ++
    c.inqRevision.toList

/-- The `LEN` bytes of an Inquiry response: the record, cut or padded with zeros (R262). -/
def inquiryResponse (c : Config) (len : Nat) : List Byte :=
  (inquiryRecord c).take len ++ List.replicate (len - inqLen) 0x00

/-- `MS0(cap)` (R265): the template with bytes 5 to 7 the capacity. -/
def modePage0 (c : Config) (cap : BitVec 32) : List Byte :=
  c.ms0Template.toList.take 5 ++ be24 cap ++ c.ms0Template.toList.drop 8

/-- `cyl = (cap div MS4_HEADS) mod 2^24` (R266), the reduction being made by the 24-bit field that holds it. -/
def cylinders (c : Config) (cap : BitVec 32) : BitVec 32 := cap / c.ms4Heads.setWidth 32

/-- `MS4(cap)` (R266): the template with bytes 2 to 4 the cylinders and byte 5 the heads. -/
def modePage4 (c : Config) (cap : BitVec 32) : List Byte :=
  c.ms4Template.toList.take 2 ++ be24 (cylinders c cap) ++ [c.ms4Heads] ++ c.ms4Template.toList.drop 6

/-- The level of data line `D[k]` when byte `v` is on the lines: bit `k` of `v` (R67). -/
def dataLine (v : Byte) (k : Fin 8) : Bool := v.getLsbD k.val

/-- The electrical level of a line with the given polarity: true is high (R10, D9). No rule reads it. -/
def electricalLevel (p : ActiveLevel) (l : Level) : Bool :=
  match p, l with
  | .low, .asserted    => false
  | .low, .deasserted  => true
  | .high, .asserted   => true
  | .high, .deasserted => false

end Sys2Proof.Machine
end

