-- ==== Sys2Proof/Machine/Ops.lean ====
section
/-! DEFINITION. The shared operations: how a sequence of atomic engine steps meets its environment (R8), the
TransferBuffer (R60), the Bus Signal Layer (R120 to R127), the waits (R381), the status handshake (R190 to R195), the
watchdog reset (R336, R371), and raising an error and returning from it (R328, R329). -/

namespace Sys2Proof.Machine

/-! ## Sequences of atomic steps -/

/-- The end of a sequence of atomic steps: it came to its end with a result, or it was cut short in a state, either
because a wait found no level it can end at (the peer holds its lines) or because the watchdog reset the system. -/
inductive Flow (α : Type) where
  | done (a : α)
  | halt (s : State)
  deriving DecidableEq, Repr

/-- One sequence after another: what follows a cut sequence is not done. -/
def Flow.bind {α β : Type} (f : Flow α) (g : α → Flow β) : Flow β :=
  match f with
  | .done a => g a
  | .halt s => .halt s

/-- The state a sequence leaves. -/
def Flow.state (f : Flow State) : State :=
  match f with
  | .done s => s
  | .halt s => s

/-- The outcome of a sequence of atomic steps: the machine goes on from the state it leaves. -/
def Flow.next (f : Flow State) : Host.Outcome State Fault Refusal := .next f.state

/-! ## The environment -/

/-- The watchdog reset (R336): the effect of R371 from any state, abandoning whatever was going on. The lines are
released, the flags cleared, DeviceState not ready; what R371 leaves unspecified is zero (log entry 2). The parameters,
the peer, the collaborator and the record are not the engine's to reset. -/
def watchdogReset (s : State) : State :=
  State.record .wasReset
    { s with
      phase := if s.cfg.bootInit then .boot else .idle
      cf := ⟨0, 0, 0, 0, 0, 0⟩, bi := 0, blk := 0, cnt := 0, rem := 0
      led := false, guard := false
      dsReady := false, dsCapacity := 0
      buf := []
      dOut := .released, drqOut := .released, irqOut := .released
      statusDone := false }

/-- What may happen before an atomic step of the engine (R8): nothing (the peer holds its lines), a move of the peer,
or the watchdog reset. -/
def tick (s : State) : Flow State :=
  match s.env with
  | []              => .done s
  | .peer p :: es   => .done { s with pins := p, env := es }
  | .watchdog :: es => .halt (watchdogReset { s with env := es })

/-- One atomic step of the engine with effect `f` (R8). A register write is one: `act (writeBlk b)`. -/
def act (f : State → State) (s : State) : Flow State := (tick s).bind fun s => .done (f s)

/-- The collaborator's next answer: the first listed one, else a free value (R76). -/
def nextReply (s : State) : CollReply :=
  match s.replies with
  | r :: _ => r
  | []     => Config.freeReply s.draws

/-- The collaborator has given its next answer. -/
def popReply (s : State) : State :=
  { s with replies := s.replies.tail, draws := if s.replies.isEmpty then s.draws + 1 else s.draws }

/-! ## The TransferBuffer (R60, R12) -/

/-- Read one byte. -/
def Memory.read (m : Memory) (a : Nat) : Byte :=
  match m with
  | []          => Memory.unlisted
  | (b, w) :: m => if a = b then w else Memory.read m a

/-- Put a cell into its place. -/
def Memory.insert (m : Memory) (a : Nat) (v : Byte) : Memory :=
  match m with
  | []          => [(a, v)]
  | (b, w) :: m => if a < b then (a, v) :: (b, w) :: m else (b, w) :: Memory.insert m a v

/-- Take out every cell of an address. -/
def Memory.erase (m : Memory) (a : Nat) : Memory := m.filter fun x => !decide (x.1 = a)

/-- Write one byte, keeping the canonical form. -/
def Memory.write (m : Memory) (a : Nat) (v : Byte) : Memory :=
  if v = Memory.unlisted then Memory.erase m a else Memory.insert (Memory.erase m a) a v

/-- Write a list of bytes at rising addresses. -/
def Memory.writeBytes (m : Memory) (a : Nat) (l : List Byte) : Memory :=
  match l with
  | []     => m
  | v :: l => Memory.writeBytes (Memory.write m a v) (a + 1) l

/-- `MemRead(0, n)` (R12): every transfer starts at offset 0 (R60). -/
def Memory.bytes (m : Memory) (n : Nat) : List Byte := (List.range n).map (Memory.read m)

/-- `MemWrite(0, n, l)` (R12), `n` the length of `l`. -/
def memWrite (l : List Byte) (s : State) : State := { s with buf := Memory.writeBytes s.buf 0 l }

/-- `BUF[i] <- v` (R142, R262). -/
def storeByte (i : Nat) (v : Byte) (s : State) : State := { s with buf := Memory.write s.buf i v }

/-! ## The phase register (R23) -/

/-- `phase <- p` (R12). -/
def writePhase (p : Phase) (s : State) : State := { s with phase := p }

/-! ## The Bus Signal Layer (R120) -/

/-- The lines `{D, DRQ}` (R141), `{IRQ}` (R165) and `{D, DRQ, IRQ}` (R190). -/
def LineSet.dma : LineSet := { d := true, drq := true, irq := false }
def LineSet.irqOnly : LineSet := { d := false, drq := false, irq := true }
def LineSet.all : LineSet := { d := true, drq := true, irq := true }

/-- The drivers after `Release(L)` (R121). -/
def releaseLines (l : LineSet) (s : State) : State :=
  State.record (.released l)
    { s with
      dOut := if l.d then .released else s.dOut
      drqOut := if l.drq then .released else s.drqOut
      irqOut := if l.irq then .released else s.irqOut }

/-- `Release(L)` (R121). -/
def release (l : LineSet) : State → Flow State := act (releaseLines l)

/-- `DriveData(v)` (R122). -/
def driveData (v : Byte) : State → Flow State :=
  act fun s => State.record (.droveData v) { s with dOut := .drive v }

/-- The request line goes low, and is released again when the pulse ends (R123). -/
def drqLow (s : State) : State := { s with drqOut := .low }
def drqHigh (s : State) : State := { s with drqOut := .released }

/-- `PulseLow(DRQ, n)` (R123): one step, which the peer observes as one request. -/
def pulseLow (n : Nat) : State → Flow State :=
  act fun s => drqHigh (State.record (.pulsedDrq n) (drqLow s))

/-- `AssertLine(IRQ)` (R124). -/
def assertIrq : State → Flow State :=
  act fun s => State.record .assertedIrq { s with irqOut := .asserted }

/-- `Sample({CS, A1})` (R125): both levels at one instant. -/
def sampleLines (s : State) : Flow ((Level × Level) × State) :=
  (tick s).bind fun s => .done ((s.pins.cs, s.pins.a1), State.record (.sampledLines s.pins.cs s.pins.a1) s)

/-- What the data lines hold: the peer's byte while the engine has released them; while it drives them itself the
value is contended and free (R125, R32, U7). -/
def dataLines (s : State) : Byte × State :=
  match s.dOut with
  | .released => (s.pins.data, s)
  | .drive _  => (Config.contendedData s.draws, { s with draws := s.draws + 1 })

/-- `SampleData()` (R125). -/
def sampleData (s : State) : Flow (Byte × State) :=
  (tick s).bind fun s => let (v, s) := dataLines s; .done (v, State.record (.sampledData v) s)

/-- `LED <- b` and `GUARD <- b` as atomic steps (R8, R12). -/
def setLed (b : Bool) : State → Flow State := act (State.writeLed b)
def setGuard (b : Bool) : State → Flow State := act (State.writeGuard b)

/-- `WdgService()` (R334, R335). -/
def wdgService : State → Flow State := act (State.record .wdgService)

/-- `Delay()` (R12): the recovery delay, no change of state. DESIGN CHOICE (log entry 1): R8 and D1 do not list it among
the atomic steps; it is one here, so the peer may move and the watchdog may reset before it. -/
def recoveryDelay : State → Flow State := act fun s => State.record (.delayed s.cfg.recoveryDelay) s

/-! ## Waits -/

/-- The level a wait is for (R381). -/
def WaitKind.holds (w : WaitKind) (p : Pins) : Bool :=
  match w with
  | .ackAsserted  => decide (p.ack = .asserted)
  | .csAsserted   => decide (p.cs = .asserted)
  | .csDeasserted => decide (p.cs = .deasserted)

/-- The samples of a wait, over the environment's events. -/
def spinOver (w : WaitKind) (ph : Phase) (s : State) : List EnvEvent → Flow State
  | []              =>
      if w.holds s.pins then .done (State.record (.waited w) { s with env := [] })
      else .halt { s with env := [], phase := ph }
  | .peer p :: es   =>
      if w.holds p then .done (State.record (.waited w) { s with pins := p, env := es })
      else spinOver w ph { s with pins := p } es
  | .watchdog :: es => .halt (watchdogReset { s with env := es })

/-- `SpinUntil(c)` (R12): sample, each sample an atomic step, until the level is found. It is unbounded, services no
watchdog and latches nothing (R144, R381). When the peer holds its lines at the other level the engine is left at
position `ph`, in the wait. -/
def spinUntil (w : WaitKind) (ph : Phase) (s : State) : Flow State := spinOver w ph s s.env

/-! ## The status handshake (R190 to R195) -/

/-- What follows the status wait (R190): the return from a command, and from an error (R194, R329). Nothing is
restored, since nothing was saved. R194 says that the frame is discarded here and gives no value that `CF` then holds:
DESIGN CHOICE (log entry 35), `CF` keeps the old frame until reception writes the next one. -/
def statusReturn (s : State) : Flow State :=
  (release .all s).bind fun s =>
  (setGuard false s).bind fun s =>
  (act (State.writeStatusDone true) s).bind (act (writePhase .idle))

/-- The second half of the status wait: until CS is sampled deasserted (R193). -/
def statusWaitDeasserted (s : State) : Flow State :=
  spinUntil .csDeasserted (.sendingStatus .deasserted) s

/-- The first half of the status wait under `EDGE`: until CS is sampled asserted (R193). -/
def statusWaitAsserted (s : State) : Flow State :=
  spinUntil .csAsserted (.sendingStatus .asserted) s

/-- `StatusWait()` (R193). -/
def statusWait (s : State) : Flow State :=
  match s.cfg.statusWait with
  | .level => statusWaitDeasserted s
  | .edge  => (statusWaitAsserted s).bind statusWaitDeasserted

/-- The position that `phase <- SendingStatus` leads to: before the first wait of the handshake (R190, R193). -/
def statusStart (c : Config) : StatusPos :=
  match c.statusWait with
  | .level => .deasserted
  | .edge  => .asserted

/-- `SendStatus(code)` (R190). -/
def sendStatus (code : Byte) (s : State) : Flow State :=
  (act (fun s => writePhase (.sendingStatus (statusStart s.cfg)) s) s).bind fun s =>
  (setLed false s).bind fun s =>
  (setGuard true s).bind fun s =>
  (driveData code s).bind fun s =>
  (assertIrq s).bind fun s =>
  (statusWait s).bind statusReturn

/-- `SendSuccess()` (R191). -/
def sendSuccess (s : State) : Flow State := sendStatus statusOk s

/-- `SendError()` (R191). -/
def sendError (s : State) : Flow State := sendStatus statusErr s

/-- `raise Error(kind)` (R328): the one form of exception of the engine. It is `SendError()` and the end of the
command; nothing is saved and no mode changes. The kind goes to the record only, as a ghost (R320). -/
def raiseError (k : ErrorKind) (s : State) : Flow State := sendError (State.record (.raised k) s)

end Sys2Proof.Machine
end

