-- ==== Sys2Proof/Machine/Dma.lean ====
section
/-! DEFINITION. The DMA Transfer Protocol: `Send` and `Receive` (R140 to R149). -/

namespace Sys2Proof.Machine

/-- The end of either operation (R141, R142, R148): the lines released, then the guard. -/
def endTransfer (s : State) : Flow State := (release .dma s).bind (setGuard false)

/-- The acknowledge wait of byte `i` of a `Send` of `n` bytes (R141, R144, R147). -/
def waitSendAck (n : Nat) (next : AfterSend) (i : Nat) (s : State) : Flow State :=
  spinUntil .ackAsserted (.dispatching (.sendAck i n next)) s

/-- The last `k` iterations of the loop of `Send(n)`, from byte `i` on, and its end (R141). -/
def sendFrom (n : Nat) (next : AfterSend) : Nat → Nat → State → Flow State
  | 0, _, s     => endTransfer s
  | k + 1, i, s =>
      (driveData (Memory.read s.buf i) s).bind fun s =>
      (pulseLow s.cfg.sendPulseCycles s).bind fun s =>
      (waitSendAck n next i s).bind (sendFrom n next k (i + 1))

/-- `Send(n)` (R141). -/
def send (n : Nat) (next : AfterSend) (s : State) : Flow State :=
  (setGuard true s).bind (sendFrom n next n 0)

/-- The acknowledge wait of byte `i` of a `Receive` (R142, R144, R147). -/
def waitRecvAck (i : Nat) (s : State) : Flow State :=
  spinUntil .ackAsserted (.dispatching (.recvAck i)) s

/-- The last `k` iterations of the loop of `Receive`, from byte `i` on, and its end (R142): the byte is sampled when
the pulse has ended and before the acknowledge is looked at. -/
def recvFrom : Nat → Nat → State → Flow State
  | 0, _, s     => endTransfer s
  | k + 1, i, s =>
      (pulseLow s.cfg.recvPulseCycles s).bind fun s =>
      (sampleData s).bind fun (v, s) =>
      (act (storeByte i v) s).bind fun s =>
      (waitRecvAck i s).bind (recvFrom k (i + 1))

/-- `Receive(n)` (R142). -/
def receive (n : Nat) (s : State) : Flow State := (setGuard true s).bind (recvFrom n 0)

end Sys2Proof.Machine
end

