-- ==== Sys2Proof/Machine/Storage.lean ====
section
/-! DEFINITION. The Storage Access Layer: the collaborator's calls, `Initialize`, and the bounded retry around a block
access (R205 to R214). -/

namespace Sys2Proof.Machine

/-! ## The collaborator (R205): each call is one atomic step, each result the oracle's (R76) -/

/-- A call: take the next answer, and act on it. -/
def collCall {α : Type} (f : CollReply → State → α × State) (s : State) : Flow (α × State) :=
  (tick s).bind fun s => .done (f (nextReply s) (popReply s))

/-- `Coll.init()`. -/
def collInit : State → Flow (Bool × State) :=
  collCall fun r s => (r.ok, State.record (.collInit r.ok) s)

/-- `Coll.capacityInBlocks()`. -/
def collCapacity : State → Flow (Nat × State) :=
  collCall fun r s => (r.capacity, State.record (.collCapacity r.capacity) s)

/-- `Coll.readBlock(i)`: `BUF[0..511]` holds the block when it succeeds, any bytes when it fails (R207, D31). -/
def collRead (i : Nat) : State → Flow (Bool × State) :=
  collCall fun r s => (r.ok, State.record (.collRead i r.ok) (memWrite r.data.toList s))

/-- `Coll.writeBlock(i)`: it is given `BUF[0..511]` (R208). -/
def collWrite (i : Nat) : State → Flow (Bool × State) :=
  collCall fun r s => (r.ok, State.record (.collWrite i (Memory.bytes s.buf blockSize) r.ok) s)

/-! ## Initialize (R206) -/

/-- `DS.capacity <- n`, truncated to `CAP_BITS` (R206, U16). -/
def writeCapacity (n : Nat) (s : State) : State := { s with dsCapacity := capacityOf n }

/-- `DS.ready <- ok`, and `ok` as the result (R206, R209). -/
def setReady (ok : Bool) (s : State) : Flow (Bool × State) :=
  (act (State.writeReady ok) s).bind fun s => .done (ok, s)

/-- `Initialize()` (R206). It does not look at `DS.ready`. -/
def initDevice (s : State) : Flow (Bool × State) :=
  (collInit s).bind fun (ok, s) =>
  if ok then
    (collCapacity s).bind fun (n, s) =>
    (act (writeCapacity n) s).bind (setReady true)
  else setReady false s

/-! ## Retry (R209) -/

/-- `REM <- n` (R26). -/
def writeRem (n : Nat) (s : State) : State := { s with rem := n }

/-- The gap after a failed attempt, `n` attempts being left (R209, D32): service, delay, and the forced
reinitialization once at most half the budget is left. -/
def retryGap (n : Nat) (s : State) : Flow (Bool × State) :=
  (wdgService (State.record (.raised .storageTransient) s)).bind fun s =>
  (recoveryDelay s).bind fun s =>
  if n ≤ retryBound / 2 then initDevice s else .done (true, s)

/-- `Retry` with `n` attempts left (R209): no attempt left is the failure of the budget. -/
def retryFrom (op : State → Flow (Bool × State)) : Nat → State → Flow (Bool × State)
  | 0, s     => setReady false s
  | n + 1, s =>
      (op s).bind fun (ok, s) =>
      if ok then .done (true, s)
      else
        (act (writeRem n) s).bind fun s =>
        if n = 0 then retryFrom op n s
        else
          (retryGap n s).bind fun (ok, s) =>
          if ok then retryFrom op n s else .done (false, s)

/-- `Retry(op, index)` (R209), `op` being applied to its index. -/
def retry (op : State → Flow (Bool × State)) (s : State) : Flow (Bool × State) :=
  (act (writeRem retryBound) s).bind (retryFrom op retryBound)

/-- `ReadBlock(index)` (R207). -/
def readBlock (i : Nat) : State → Flow (Bool × State) := retry (collRead i)

/-- `WriteBlock(index)` (R208). -/
def writeBlock (i : Nat) : State → Flow (Bool × State) := retry (collWrite i)

end Sys2Proof.Machine
end

