-- ==== Sys2Proof/Machine/Dispatcher.lean ====
section
/-! DEFINITION. What the commands of the Command Dispatcher share (R231, R236, R241). -/

namespace Sys2Proof.Machine

/-- The prologue of every command (R231): a device that is not ready is initialized first, and when that fails the
command ends with the error status whatever it is. -/
def prologue (body : State → Flow State) (s : State) : Flow State :=
  if s.dsReady then body s
  else
    (initDevice s).bind fun (ok, s) =>
    if ok then body s else raiseError .notReady s

/-- Send the first `n` bytes of the TransferBuffer, and succeed (R260, R262, R265, R266). -/
def sendResponse (n : Nat) (s : State) : Flow State := (send n .status s).bind sendSuccess

/-- Put a response into the TransferBuffer with one `MemWrite`, send its first `n` bytes, and succeed (R260, R265,
R266). -/
def respond (bytes : List Byte) (n : Nat) (s : State) : Flow State :=
  (act (memWrite bytes) s).bind (sendResponse n)

/-- Put a response into the TransferBuffer byte by byte, from byte `i` on, one store for each (R262). -/
def storeBytes : List Byte → Nat → State → Flow State
  | [], _, s     => .done s
  | v :: l, i, s => (act (storeByte i v) s).bind (storeBytes l (i + 1))

/-- The initialize class (R236): force `Initialize()`, and succeed iff it succeeds. -/
def forceInit (s : State) : Flow State :=
  (initDevice s).bind fun (ok, s) =>
  if ok then sendSuccess s else raiseError .storageFatal s

end Sys2Proof.Machine
end

