-- ==== Sys2Proof/Machine/Block.lean ====
section
/-! DEFINITION. The block commands (R290 to R294). -/

namespace Sys2Proof.Machine

/-- `BLK <- b` (R25). -/
def writeBlk (b : Nat) (s : State) : State := { s with blk := b }

/-- `CNT <- n` (R25): the blocks remaining. -/
def writeCnt (n : Nat) (s : State) : State := { s with cnt := BitVec.ofNat 8 n }

/-- The head of the iteration for block `b`: the block index, and the service of the watchdog (R291, R292). -/
def blockHead (b : Nat) (s : State) : Flow State := (act (writeBlk b) s).bind wdgService

/-- The loop of Read-block with `n` blocks remaining, from block `b` on (R291). -/
def readLoop : Nat → Nat → State → Flow State
  | 0, _, s     => sendSuccess s
  | n + 1, b, s =>
      (blockHead b s).bind fun s =>
      (readBlock b s).bind fun (ok, s) =>
      if ok then (send blockSize .readLoop s).bind fun s => (act (writeCnt n) s).bind (readLoop n (b + 1))
      else raiseError .storageFatal s

/-- What both block commands begin with: the range check (R290), then the count of blocks (R25) and the loop. -/
def blockCommand (loop : Nat → Nat → State → Flow State) (a : Args) (s : State) : Flow State :=
  if rangeOk a s then (act (writeCnt (countOperand a)) s).bind (loop (countOperand a) (blockIndex a))
  else raiseError .range s

/-- `READ_BLOCK` (R291). -/
def execReadBlock (a : Args) (s : State) : Host.Outcome State Fault Refusal :=
  (prologue (blockCommand readLoop a) s).next

/-- The rest of an iteration of Write-block after its `Receive` (R292): write the block, then go on with `rest`. -/
def storeBlock (rest : State → Flow State) (b n : Nat) (s : State) : Flow State :=
  (writeBlock b s).bind fun (ok, s) =>
  if ok then (act (writeCnt n) s).bind rest else raiseError .storageFatal s

/-- The loop of Write-block with `n` blocks remaining, from block `b` on (R292). -/
def writeLoop : Nat → Nat → State → Flow State
  | 0, _, s     => sendSuccess s
  | n + 1, b, s =>
      (blockHead b s).bind fun s =>
      (receive blockSize s).bind (storeBlock (writeLoop n (b + 1)) b n)

/-- `WRITE_BLOCK` (R292): the range check before anything is received. -/
def execWriteBlock (a : Args) (s : State) : Host.Outcome State Fault Refusal :=
  (prologue (blockCommand writeLoop a) s).next

end Sys2Proof.Machine
end

