-- ==== Sys2Proof/Machine/DataOut.lean ====
section
/-! DEFINITION. The commands that send a synthesized response (R260 to R266). -/

namespace Sys2Proof.Machine

/-- The body of Request-Sense (R260): the result of the forced `Initialize()` is not tested (D20). -/
def requestSense (len : Nat) (s : State) : Flow State :=
  (initDevice s).bind fun (_, s) => respond (senseResponse s.dsCapacity (senseLength len)) len s

/-- `REQUEST_SENSE` (R260). -/
def execRequestSense (a : Args) (s : State) : Host.Outcome State Fault Refusal :=
  (prologue (requestSense (countOperand a)) s).next

/-- The body of Inquiry (R262). -/
def inquiry (len : Nat) (s : State) : Flow State :=
  (storeBytes (inquiryResponse s.cfg len) 0 s).bind (sendResponse len)

/-- `INQUIRY` (R262). -/
def execInquiry (a : Args) (s : State) : Host.Outcome State Fault Refusal :=
  (prologue (inquiry (countOperand a)) s).next

/-- `MODE_SENSE_0` (R265): sent at its fixed length, whatever `LEN` says (R264). -/
def execModeSense0 (_a : Args) (s : State) : Host.Outcome State Fault Refusal :=
  (prologue (fun s => respond (modePage0 s.cfg s.dsCapacity) ms0Len s) s).next

/-- `MODE_SENSE_4` (R266): sent at its fixed length, whatever `LEN` says (R264). -/
def execModeSense4 (_a : Args) (s : State) : Host.Outcome State Fault Refusal :=
  (prologue (fun s => respond (modePage4 s.cfg s.dsCapacity) ms4Len s) s).next

end Sys2Proof.Machine
end

