-- ==== Sys2Proof/Machine/NoOp.lean ====
section
/-! DEFINITION. The no-op class (R232 to R235): always succeed, no storage or bus transfer. -/

namespace Sys2Proof.Machine

/-- `SEEK` (R232). -/
def execSeek (_a : Args) (s : State) : Host.Outcome State Fault Refusal := (prologue sendSuccess s).next

/-- `CORRECTION` (R233). -/
def execCorrection (_a : Args) (s : State) : Host.Outcome State Fault Refusal := (prologue sendSuccess s).next

/-- `MODE_SELECT` (R234): no parameter list is received, whatever `LEN` says. -/
def execModeSelect (_a : Args) (s : State) : Host.Outcome State Fault Refusal := (prologue sendSuccess s).next

/-- `SHIP` (R235). -/
def execShip (_a : Args) (s : State) : Host.Outcome State Fault Refusal := (prologue sendSuccess s).next

end Sys2Proof.Machine
end

