-- ==== Sys2Proof/Machine/Reinit.lean ====
section
/-! DEFINITION. The initialize class (R236 to R239): force `Initialize()` even when the device is ready. -/

namespace Sys2Proof.Machine

/-- `TEST_READY` (R236). -/
def execTestReady (_a : Args) (s : State) : Host.Outcome State Fault Refusal := (prologue forceInit s).next

/-- `FORMAT_DRIVE` (R237): nothing of the medium is written. -/
def execFormatDrive (_a : Args) (s : State) : Host.Outcome State Fault Refusal := (prologue forceInit s).next

/-- `VERIFY_TRACK` (R238): no block is read. -/
def execVerifyTrack (_a : Args) (s : State) : Host.Outcome State Fault Refusal := (prologue forceInit s).next

/-- `FORMAT_TRACK` (R239): no block is written. -/
def execFormatTrack (_a : Args) (s : State) : Host.Outcome State Fault Refusal := (prologue forceInit s).next

end Sys2Proof.Machine
end

