-- ==== Sys2Proof/Machine/Unsupported.lean ====
section
/-! DEFINITION. Any other opcode, and Mode-sense with any other sub-page (R240, R267). -/

namespace Sys2Proof.Machine

/-- `UNSUPPORTED` (R240, R267): fail at once with the error status, no transfer. -/
def execUnsupported (_o : Opc) (_a : Args) (s : State) : Host.Outcome State Fault Refusal :=
  (prologue (raiseError .unsupportedCommand) s).next

end Sys2Proof.Machine
end

