-- ==== Sys2Proof/Machine/Dispatch.lean ====
section
/-! DEFINITION. The instruction dispatch: one arm for each command of R98 (R231). -/

namespace Sys2Proof.Machine

def exec (i : Instr) (s : State) : Host.Outcome State Fault Refusal :=
  match i with
  | .testReady a => Sys2Proof.Machine.execTestReady a s
  | .requestSense a => Sys2Proof.Machine.execRequestSense a s
  | .formatDrive a => Sys2Proof.Machine.execFormatDrive a s
  | .verifyTrack a => Sys2Proof.Machine.execVerifyTrack a s
  | .formatTrack a => Sys2Proof.Machine.execFormatTrack a s
  | .readBlock a => Sys2Proof.Machine.execReadBlock a s
  | .writeBlock a => Sys2Proof.Machine.execWriteBlock a s
  | .seek a => Sys2Proof.Machine.execSeek a s
  | .correction a => Sys2Proof.Machine.execCorrection a s
  | .inquiry a => Sys2Proof.Machine.execInquiry a s
  | .modeSelect a => Sys2Proof.Machine.execModeSelect a s
  | .modeSense0 a => Sys2Proof.Machine.execModeSense0 a s
  | .modeSense4 a => Sys2Proof.Machine.execModeSense4 a s
  | .ship a => Sys2Proof.Machine.execShip a s
  | .unsupported o a => Sys2Proof.Machine.execUnsupported o a s

end Sys2Proof.Machine
end

