-- ==== Sys2Proof/Machine/Reception.lean ====
section
/-! DEFINITION. The Command Reception State Machine (R160 to R171) and the boot line of the reset (R371): one step of
each phase before `Dispatching`. -/

namespace Sys2Proof.Machine

/-- `if BOOT_INIT: Initialize()`, then `Idle` (R371). -/
def bootStep (s : State) : Flow State :=
  (initDevice s).bind fun (_, s) => act (writePhase .idle) s

/-- One iteration of the poll of `Idle` (R161). When the pattern is not there no register is written: the engine is in
`Idle` for the next iteration. -/
def idleStep (s : State) : Flow State :=
  (wdgService s).bind fun s =>
  (sampleLines s).bind fun ((cs, a1), s) =>
  if cs = .asserted ∧ a1 = .asserted then act (writePhase .addressMatch) s else .done (writePhase .idle s)

/-- `CF[k] <- v` (R12). -/
def writeFrame (k : Fin 6) (v : Byte) (s : State) : State := { s with cf := s.cf.set k v }

/-- `BI <- k` (R24). -/
def writeBi (k : Fin 6) (s : State) : State := { s with bi := k }

/-- `AddressMatch` (R162 to R164): capture byte 0 and filter it by the device ID. -/
def addressMatchStep (s : State) : Flow State :=
  (sampleData s).bind fun (raw, s) =>
  if idField raw = s.cfg.deviceId then
    (act (writeFrame 0 (storedOpcode raw)) s).bind fun s =>
    (act (writePhase (.receivingBytes false)) s).bind fun s =>
    (setGuard true s).bind fun s =>
    (setLed true s).bind (act (writeBi 1))
  else act (writePhase .idle) s

/-- What follows the capture of frame byte `BI` (R165): the next byte, or `Complete` after byte 5. The register written
is `BI` or `phase`; that the engine is then at the head of the loop again is the position alone. -/
def nextByte (s : State) : Flow State :=
  if s.bi = 5 then act (writePhase .complete) s
  else act (fun s => writePhase (.receivingBytes false) (writeBi (s.bi + 1) s)) s

/-- One iteration of `ReceivingBytes` (R165); `waiting` says that IRQ has been asserted for this byte and the engine
is in the strobe wait. -/
def receiveByteStep (waiting : Bool) (s : State) : Flow State :=
  (if waiting then .done s else assertIrq s).bind fun s =>
  (spinUntil .csAsserted (.receivingBytes true) s).bind fun s =>
  (release .irqOnly s).bind fun s =>
  (sampleData s).bind fun (v, s) =>
  (act (fun s => writeFrame s.bi v s) s).bind nextByte

/-- `Complete` (R166). -/
def completeStep (s : State) : Flow State :=
  (setGuard false s).bind fun s =>
  (act (State.writeStatusDone false) s).bind (act (writePhase (.dispatching .start)))

/-- The engine as reception of frame `f` leaves it (R166): the frame assembled, `LED` 1, `GUARD` 0, no status sent yet,
at the first line of the command. -/
def received (f : Frame) (s : State) : State :=
  { s with cf := f, led := true, guard := false, statusDone := false, phase := .dispatching .start }

end Sys2Proof.Machine
end

