-- ==== Sys2Proof/Machine/Resume.lean ====
section
/-! DEFINITION. The engine going on from inside one of its waits (R23, R144, R339): it samples again, and when the
level has come it goes on with the rest of the command. -/

namespace Sys2Proof.Machine

/-- What follows a `Send` (R260 to R266, R291): the status, or the rest of the Read-block loop. -/
def afterSend (next : AfterSend) (s : State) : Flow State :=
  match next with
  | .status   => sendSuccess s
  | .readLoop => (act (writeCnt (s.cnt.toNat - 1)) s).bind (readLoop (s.cnt.toNat - 1) (s.blk + 1))

/-- From the acknowledge wait of byte `i` of a `Send` of `n` bytes (R141). The bytes after it are read from the buffer,
which has no byte from `BUF_CAP` on (R60). -/
def resumeSend (i n : Nat) (next : AfterSend) (s : State) : Host.Outcome State Fault Refusal :=
  if n ≤ bufCap then
    (((waitSendAck n next i s).bind (sendFrom n next (n - (i + 1)) (i + 1))).bind (afterSend next)).next
  else .fault .bufferAddress

/-- From the acknowledge wait of byte `i` of a block's `Receive` (R142), then the rest of the Write-block (R292). -/
def resumeReceive (i : Nat) (s : State) : Flow State :=
  ((waitRecvAck i s).bind (recvFrom (blockSize - (i + 1)) (i + 1))).bind fun s =>
  storeBlock (writeLoop (s.cnt.toNat - 1) (s.blk + 1)) s.blk (s.cnt.toNat - 1) s

/-- From the status wait (R190, R193). -/
def resumeStatus (p : StatusPos) (s : State) : Flow State :=
  match p with
  | .asserted   => ((statusWaitAsserted s).bind statusWaitDeasserted).bind statusReturn
  | .deasserted => (statusWaitDeasserted s).bind statusReturn

end Sys2Proof.Machine
end

