-- ==== Sys2Proof/Machine/Step.lean ====
section
/-! DEFINITION. One step of the machine, by its phase (R171, R230). A step is one atomic step, or one iteration of a
loop, of reception; one whole command from its first line on; or one attempt to go on from a wait. It ends when the
command ends, when a wait finds the peer holding its lines, or when the watchdog resets the system. -/

namespace Sys2Proof.Machine

/-- The machine's step. A configuration that breaks R98 is refused (U21). -/
def step (s : State) : Host.Outcome State Fault Refusal :=
  if s.cfg.ok then
    match s.phase with
    | .boot                            => (bootStep s).next
    | .idle                            => (idleStep s).next
    | .addressMatch                    => (addressMatchStep s).next
    | .receivingBytes w                => (receiveByteStep w s).next
    | .complete                        => (completeStep s).next
    | .dispatching .start              => exec (decodeFrame s.cfg s.cf) s
    | .dispatching (.sendAck i n next) => resumeSend i n next s
    | .dispatching (.recvAck i)        => (resumeReceive i s).next
    | .sendingStatus p                 => (resumeStatus p s).next
  else .refused .badConfiguration

/-- The state in which the frame of a word of the opcode table has just been received, so that the next step runs its
command (R166). The word is laid out as `frameOfWord` says. -/
def State.withFetchWord (s : State) (nbits w : Nat) : State := received (frameOfWord nbits w) s

end Sys2Proof.Machine
end

