-- ==== Sys2Proof/Safety.lean ====
section
/-! DEFINITION. The terms the claims are stated in: an environment that lets every wait end, the record of each
operation, what the record says of the outputs, the order of guarded steps, and the invariant of the machine. -/

namespace Sys2Proof.Machine

/-! ## The environment of a run -/

/-- The levels the peer's lines come to rest at, when its scheduled moves are over. -/
def restPins (p : Pins) (es : List EnvEvent) : Pins :=
  match es with
  | []              => p
  | .peer q :: es   => restPins q es
  | .watchdog :: es => restPins p es

/-- No watchdog reset is scheduled. -/
abbrev NoReset (s : State) : Prop := EnvEvent.watchdog ∉ s.env

/-- A peer at which the status wait ends, with the default status wait: no watchdog reset is scheduled, and however its
lines move meanwhile, they come to rest with `CS` deasserted. -/
abbrev StatusEnds (s : State) : Prop :=
  s.cfg.statusWait = .level ∧ NoReset s ∧ (restPins s.pins s.env).cs = .deasserted

/-- A peer at which every wait of a command ends, with the default status wait: no watchdog reset is scheduled, and
however its lines move meanwhile, they come to rest with `ACK` asserted and `CS` deasserted. -/
abbrev Cooperative (s : State) : Prop :=
  s.cfg.statusWait = .level ∧ NoReset s ∧ (restPins s.pins s.env).ack = .asserted ∧
    (restPins s.pins s.env).cs = .deasserted

/-- The lines as the `n`-th atomic step from now on finds them (the next one is the first), when no watchdog reset comes
before it. -/
def pinsAt (n : Nat) (s : State) : Pins := restPins s.pins (s.env.take n)

/-- The same machine with the default status wait (R193). -/
def State.underLevel (s : State) : State := { s with cfg := { s.cfg with statusWait := .level } }

/-- A state without its environment's lines and schedule: two states with the same engine differ only in what the
peer is doing. -/
def State.engine (s : State) : State := { s with pins := Pins.quiet, env := [] }

/-- The level that a phase waits for, if it is in one of the waits (R339). -/
def Phase.wait : Phase → Option WaitKind
  | .boot                          => none
  | .idle                          => none
  | .addressMatch                  => none
  | .receivingBytes true           => some .csAsserted
  | .receivingBytes false          => none
  | .complete                      => none
  | .dispatching .start            => none
  | .dispatching (.sendAck _ _ _)  => some .ackAsserted
  | .dispatching (.recvAck _)      => some .ackAsserted
  | .sendingStatus .asserted       => some .csAsserted
  | .sendingStatus .deasserted     => some .csDeasserted

/-- The engine is in a wait, and the peer holds its lines at a level that does not end it (R339). -/
def Hung (s : State) : Prop := s.env = [] ∧ ∃ w, s.phase.wait = some w ∧ w.holds s.pins = false

/-! ## The records of the operations, the earliest entry first -/

/-- The state after the entries of `tr` have been recorded. -/
def State.after (tr : List Event) (s : State) : State := { s with log := tr.reverse ++ s.log }

/-- The tokens of one byte of a `Send` (R141). -/
def sendByteTrace (c : Config) (b : Byte) : List Event :=
  [.droveData b, .pulsedDrq c.sendPulseCycles, .waited .ackAsserted]

/-- The tokens of one byte of a `Receive` (R142). -/
def recvByteTrace (c : Config) (b : Byte) : List Event :=
  [.pulsedDrq c.recvPulseCycles, .sampledData b, .waited .ackAsserted]

/-- `Send` of the given bytes (R141): the tokens of vector V-DMA-1. -/
def sendTrace (c : Config) (l : List Byte) : List Event :=
  [.guardSet true] ++ l.flatMap (sendByteTrace c) ++ [.released .dma, .guardSet false]

/-- `Receive` of the given bytes (R142): the tokens of vector V-DMA-3. -/
def recvTrace (c : Config) (l : List Byte) : List Event :=
  [.guardSet true] ++ l.flatMap (recvByteTrace c) ++ [.released .dma, .guardSet false]

/-- The status handshake (R190): the tokens of vector V-ST-1. -/
def statusTrace (code : Byte) : List Event :=
  [.ledSet false, .guardSet true, .droveData code, .assertedIrq, .waited .csDeasserted, .released .all,
   .guardSet false]

/-- The status handshake under `EDGE` (R190, R193). -/
def edgeStatusTrace (code : Byte) : List Event :=
  [.ledSet false, .guardSet true, .droveData code, .assertedIrq, .waited .csAsserted, .waited .csDeasserted,
   .released .all, .guardSet false]

/-- The gap after a failed attempt, without the forced reinitialization (R209, D32). -/
def gapTrace (c : Config) : List Event := [.raised .storageTransient, .wdgService, .delayed c.recoveryDelay]

/-- The state at the end of a command cycle (R194), the status handshake being over. `CF` keeps the frame, which R194
discards: log entry 35. -/
def finished (code : Byte) (s : State) : State :=
  State.after (statusTrace code)
    { s with
      phase := .idle, led := false, guard := false
      dOut := .released, drqOut := .released, irqOut := .released
      statusDone := true }

/-- The state after a `Send` of the given bytes, as a change of the engine alone. -/
def sent (l : List Byte) (s : State) : State :=
  State.after (sendTrace s.cfg l) { s with guard := false, dOut := .released, drqOut := .released }

/-- The state after a `Receive` of the given bytes, as a change of the engine alone. -/
def stored (l : List Byte) (s : State) : State :=
  State.after (recvTrace s.cfg l)
    { s with buf := Memory.writeBytes s.buf 0 l, guard := false, dOut := .released, drqOut := .released }

/-- The answer to `init` has been taken (R206). -/
def initAnswered (s : State) : State := State.record (.collInit (nextReply s).ok) (popReply s)

/-- The answer to `capacityInBlocks` has been taken and recorded in DeviceState (R206). -/
def capacityAnswered (s : State) : State :=
  { State.record (.collCapacity (nextReply s).capacity) (popReply s) with
    dsReady := true, dsCapacity := capacityOf (nextReply s).capacity }

/-- `Initialize()` as a change of the engine alone (R206): ready iff `init` succeeds, and then a new capacity. -/
def reinit (s : State) : State :=
  if (nextReply s).ok then capacityAnswered (initAnswered s) else { initAnswered s with dsReady := false }

/-- The engine after the prologue of a command, when it lets the command go on (R231): initialized first if it was not
ready. -/
def prologued (s : State) : State := if s.dsReady then s else reinit s

/-- An attempt at a block access: a call of `readBlock` or `writeBlock` (R209). -/
def Event.isAccess : Event → Bool
  | .collRead _ _    => true
  | .collWrite _ _ _ => true
  | _                => false

/-- A call of `init` (R209, R210). -/
def Event.isInit : Event → Bool
  | .collInit _ => true
  | _           => false

/-- An entry of the Storage Access Layer (R205 to R209): no line and no flag has a part in it. -/
def Event.isStorage : Event → Bool
  | .collRead _ _             => true
  | .collWrite _ _ _          => true
  | .collInit _               => true
  | .collCapacity _           => true
  | .wdgService               => true
  | .delayed _                => true
  | .raised .storageTransient => true
  | _                         => false

/-- The command cycle that began in `s` is over in `t` (R194): the engine is back in `Idle` with every line released
and both flags clear, one status has been sent, and the configuration and the frame are as they were (that `CF` keeps
the discarded frame is the model's choice: log entry 35). -/
def Ended (s t : State) : Prop :=
  t.phase = .idle ∧ t.led = false ∧ t.guard = false ∧ t.dOut = .released ∧ t.drqOut = .released ∧
    t.irqOut = .released ∧ t.statusDone = true ∧ t.cfg = s.cfg ∧ t.cf = s.cf ∧ t.bi = s.bi

/-- `t` is what a watchdog reset makes of a run from `s` (R336, R371): the lines are released, the flags clear, the
device not ready, the engine in `Idle` or at the boot line; the configuration is as it was, and the reset is the last
thing recorded, after `l`. -/
def ResetInto (s t : State) (l : List Event) : Prop :=
  t.phase = (if s.cfg.bootInit then .boot else .idle) ∧ t.dOut = .released ∧ t.drqOut = .released ∧
    t.irqOut = .released ∧ t.led = false ∧ t.guard = false ∧ t.dsReady = false ∧ t.cfg = s.cfg ∧
    t.log = .wasReset :: l

/-- The tokens of the blocks of a Read-block that the collaborator answers with `rs`, from block `b` on (R291, R293). -/
def readTrace (c : Config) (b : Nat) (rs : List CollReply) : List Event :=
  (rs.zipIdx b).flatMap fun r => [.wdgService, .collRead r.2 true] ++ sendTrace c r.1.data.toList

/-- The tokens of the blocks of a Write-block whose data are `ds`, from block `b` on (R292, R293). -/
def writeTrace (c : Config) (b : Nat) (ds : List (List Byte)) : List Event :=
  (ds.zipIdx b).flatMap fun d => [.wdgService] ++ recvTrace c d.1 ++ [.collWrite d.2 d.1 true]

/-- The tokens of the attempts on a block when every call of the collaborator fails (R209, R210): three attempts `e`,
each followed by its gap, then the one `init`. -/
def fatalTrace (c : Config) (e : Event) : List Event :=
  [e] ++ gapTrace c ++ [e] ++ gapTrace c ++ [e] ++ gapTrace c ++ [.collInit false]

/-! ## What the record says of the outputs -/

/-- The outputs of the engine (R31, R27). -/
structure Outputs where
  d     : DataDrive
  irq   : IrqDrive
  led   : Bool
  guard : Bool
  deriving DecidableEq, Repr

/-- The outputs after reset (R37). -/
def Outputs.reset : Outputs := { d := .released, irq := .released, led := false, guard := false }

/-- The outputs after an entry of the record. -/
def Outputs.apply (o : Outputs) : Event → Outputs
  | .droveData v       => { o with d := .drive v }
  | .assertedIrq       => { o with irq := .asserted }
  | .released l        => { o with d := if l.d then .released else o.d, irq := if l.irq then .released else o.irq }
  | .ledSet b          => { o with led := b }
  | .guardSet b        => { o with guard := b }
  | .wasReset          => Outputs.reset
  | .wdgService        => o
  | .sampledLines _ _  => o
  | .sampledData _     => o
  | .pulsedDrq _       => o
  | .waited _          => o
  | .collInit _        => o
  | .collCapacity _    => o
  | .collRead _ _      => o
  | .collWrite _ _ _   => o
  | .delayed _         => o
  | .raised _          => o

/-- The outputs that a record, the latest entry first, has led to. -/
def outputsOf : List Event → Outputs
  | []     => Outputs.reset
  | e :: l => (outputsOf l).apply e

/-- The outputs a state holds. -/
def State.outputs (s : State) : Outputs := { d := s.dOut, irq := s.irqOut, led := s.led, guard := s.guard }

/-- Whether a step may be taken with the guard as it is (R74, R143, R385): the bus is driven, pulsed and waited on
under the guard only, storage calls, delays and watchdog services happen outside it only, and it does not nest. -/
def Event.allowed (g : Bool) : Event → Bool
  | .droveData _      => g
  | .pulsedDrq _      => g
  | .assertedIrq      => g
  | .waited _         => g
  | .released _       => g
  | .wdgService       => !g
  | .sampledLines _ _ => !g
  | .collInit _       => !g
  | .collCapacity _   => !g
  | .collRead _ _     => !g
  | .collWrite _ _ _  => !g
  | .delayed _        => !g
  | .raised _         => !g
  | .guardSet b       => decide (b ≠ g)
  | .ledSet _         => true
  | .sampledData _    => true
  | .wasReset         => true

/-- Every step of a record was taken with the guard as R74 says. -/
def disciplined : List Event → Bool
  | []     => true
  | e :: l => Event.allowed (outputsOf l).guard e && disciplined l

/-! ## The invariant -/

/-- All three drivers released (R127). -/
abbrev State.linesReleased (s : State) : Prop := s.dOut = .released ∧ s.drqOut = .released ∧ s.irqOut = .released

/-- What holds in every phase: the buffer in its canonical form, at most `RETRY_BOUND` attempts left (R26), the ID bits
of `CF[0]` clear (R93), DRQ released, the record in agreement with the outputs (R126), and every recorded step taken
with the guard as R74 says. -/
abbrev State.common (s : State) : Prop :=
  Memory.wf s.buf ∧ s.rem ≤ retryBound ∧ idField s.cf.b0 = 0 ∧ s.drqOut = .released ∧
    outputsOf s.log = s.outputs ∧ disciplined s.log = true

/-- The lines and flags of each phase (R161 to R166, R74, R195, R339). -/
def State.phaseOk (s : State) : Prop :=
  match s.phase with
  | .boot | .idle | .addressMatch => s.led = false ∧ s.guard = false ∧ s.dOut = .released ∧ s.irqOut = .released
  | .receivingBytes w =>
      s.led = true ∧ s.guard = true ∧ s.dOut = .released ∧
        s.irqOut = (if w then .asserted else .released) ∧ 1 ≤ s.bi.val
  | .complete => s.led = true ∧ s.guard = true ∧ s.dOut = .released ∧ s.irqOut = .released
  | .dispatching .start =>
      s.led = true ∧ s.guard = false ∧ s.dOut = .released ∧ s.irqOut = .released ∧ s.statusDone = false
  | .dispatching (.sendAck i n _) =>
      s.led = true ∧ s.guard = true ∧ s.dOut = .drive (Memory.read s.buf i) ∧ s.irqOut = .released ∧
        i < n ∧ n ≤ bufCap ∧ s.statusDone = false
  | .dispatching (.recvAck i) =>
      s.led = true ∧ s.guard = true ∧ s.dOut = .released ∧ s.irqOut = .released ∧ i < blockSize ∧
        s.statusDone = false
  | .sendingStatus _ =>
      s.led = false ∧ s.guard = true ∧ (s.dOut = .drive statusOk ∨ s.dOut = .drive statusErr) ∧
        s.irqOut = .asserted ∧ s.statusDone = false

/-- The invariant of the machine. -/
def State.Inv (s : State) : Prop := s.common ∧ s.phaseOk

end Sys2Proof.Machine
end

