-- ==== Sys2Proof/Certificates/Slice0/Obligations.lean ====
section
/-! DEFINITION. The statements for the provers. Each quantifies over every configuration (the state holds it) and,
unless it says otherwise, over every schedule of the peer's lines and every answer of the collaborator. -/

open Sys2Proof Sys2Proof.Machine

/-! ## Encoding -/

/-- R91, R92, R98 to R100: under any configuration with distinct opcodes, decoding the wire bytes of a well-formed
command gives it back, with every operand bit. -/
def Obligations.DecodeOfEncodeIsTheCommand : Prop :=
  ∀ (c : Config) (i : Instr), c.ok = true → i.wf c = true → decode c (encode c i) = .ok i

/-- R90, R91, R100: bytes that decode are the encoding of what they decode to, which is well-formed. -/
def Obligations.EncodeOfDecodeIsTheFrame : Prop :=
  ∀ (c : Config) (l : List Byte) (i : Instr), c.ok = true → decode c l = .ok i → encode c i = l ∧ i.wf c = true

/-- R92, R101: only bytes that are not six, or that carry another device's ID, are no command of this device. -/
def Obligations.DecodeRefusesByLengthAndId : Prop :=
  ∀ (c : Config) (l : List Byte),
    (decode c l = .error .wrongLength ↔ l.length ≠ 6) ∧
      (decode c l = .error .foreignId ↔ l.length = 6 ∧ ∃ b r, l = b :: r ∧ b.toNat / 32 ≠ c.deviceId.toNat)

/-- R64: the block address of a frame is big-endian. -/
def Obligations.BlockAddressIsBigEndian : Prop :=
  ∀ f : Frame, f.lba.toNat = f.b1.toNat * 65536 + f.b2.toNat * 256 + f.b3.toNat

/-- R22: the parser's outputs are fields of the frame registers; byte 5 feeds none of them, and no command either. -/
def Obligations.ParserReadsTheFields : Prop :=
  ∀ (c : Config) (f : Frame),
    f.opc.toNat = f.b0.toNat % 32 ∧ f.lba.toNat = f.b1.toNat * 65536 + f.b2.toNat * 256 + f.b3.toNat ∧
    f.len = f.b4 ∧ f.page c = [f.b0, f.b1, f.b2, f.b3, f.b4, f.b5][c.msPageByte] ∧
    ∀ (v : Byte) (s : State), c.ok = true → exec (decodeFrame c { f with b5 := v }) s = exec (decodeFrame c f) s

/-- R98, R99: under any configuration with distinct opcodes, the opcode of a frame, and for Mode-sense its sub-page,
select the command of the table's row, with the frame's operands. (That Correction and Mode-select are two opcodes is
the spec's reading D3 (log entry 14, PRESUMED), and that the sub-page is compared with all its eight bits decision D4
(log entry 8, PRESUMED); neither is stated by the source of R98 and R99.) -/
def Obligations.RowsOfTheTableSelectTheirCommands : Prop :=
  ∀ (c : Config) (f : Frame), c.ok = true →
    (f.opc = c.opc.testReady → decodeFrame c f = .testReady f.args) ∧
    (f.opc = c.opc.requestSense → decodeFrame c f = .requestSense f.args) ∧
    (f.opc = c.opc.formatDrive → decodeFrame c f = .formatDrive f.args) ∧
    (f.opc = c.opc.verifyTrack → decodeFrame c f = .verifyTrack f.args) ∧
    (f.opc = c.opc.formatTrack → decodeFrame c f = .formatTrack f.args) ∧
    (f.opc = c.opc.readBlock → decodeFrame c f = .readBlock f.args) ∧
    (f.opc = c.opc.writeBlock → decodeFrame c f = .writeBlock f.args) ∧
    (f.opc = c.opc.seek → decodeFrame c f = .seek f.args) ∧
    (f.opc = c.opc.correction → decodeFrame c f = .correction f.args) ∧
    (f.opc = c.opc.inquiry → decodeFrame c f = .inquiry f.args) ∧
    (f.opc = c.opc.modeSelect → decodeFrame c f = .modeSelect f.args) ∧
    (f.opc = c.opc.modeSense → f.page c = 0x00 → decodeFrame c f = .modeSense0 f.args) ∧
    (f.opc = c.opc.modeSense → f.page c = 0x04 → decodeFrame c f = .modeSense4 f.args) ∧
    (f.opc = c.opc.ship → decodeFrame c f = .ship f.args)

/-- R99, R100: under any configuration with distinct opcodes, a frame is unsupported exactly when its opcode is not
assigned, or is Mode-sense's with a sub-page other than 0 and 4. (That another sub-page is unsupported is the spec's
decision D5 (log entry 15).) -/
def Obligations.UnsupportedIsEveryOtherEncoding : Prop :=
  ∀ (c : Config) (f : Frame), c.ok = true →
    (decodeFrame c f = .unsupported f.opc f.args ↔
      (f.opc ∉ c.opc.assigned ∨ (f.opc = c.opc.modeSense ∧ f.page c ≠ 0x00 ∧ f.page c ≠ 0x04)))

/-- Frames decode to their commands: frames that 45, 46 and 47 and the vectors V-ENC and V-MSX write out, and one that
the spec does not write out, 08 00 0A 00 02 00, a Read-block whose address has only its middle byte set (R64). All are
read under the default numerals (log entry 7, PRESUMED) and as the opcode table numbers them, the ID bits being dropped,
which the words that begin with 68 and FB carry (log entry 36, the model's choice); the Mode-sense words rest on the
place and width of the sub-page (D4, log entry 8, PRESUMED) and on D5 for another sub-page (log entry 15). -/
def Obligations.SpecFramesDecodeToTheirCommands : Prop :=
  decodeTableWord 48 0x0812345602AA = some (.readBlock ⟨0x123456, 0x02, 0xAA⟩) ∧
  decodeTableWord 48 0x08000A000200 = some (.readBlock ⟨0x000A00, 0x02, 0x00⟩) ∧
  decodeTableWord 48 0x0800000A0200 = some (.readBlock ⟨0x00000A, 0x02, 0x00⟩) ∧
  decodeTableWord 48 0x680000630500 = some (.readBlock ⟨0x000063, 0x05, 0x00⟩) ∧
  decodeTableWord 48 0xFB0000000000 = some (.ship ⟨0x000000, 0x00, 0x00⟩) ∧
  decodeTableWord 48 0x0AFFFFFFFF00 = some (.writeBlock ⟨0xFFFFFF, 0xFF, 0x00⟩) ∧
  decodeTableWord 48 0x1A000400FF00 = some (.modeSense4 ⟨0x000400, 0xFF, 0x00⟩) ∧
  decodeTableWord 48 0x1A0400000000 = some (.modeSense0 ⟨0x040000, 0x00, 0x00⟩) ∧
  decodeTableWord 48 0x1A003F000000 = some (.unsupported 0x1A ⟨0x003F00, 0x00, 0x00⟩) ∧
  decodeTableWord 48 0x1F0000000000 = some (.unsupported 0x1F ⟨0x000000, 0x00, 0x00⟩) ∧
  decodeTableWord 48 0x030000000400 = some (.requestSense ⟨0x000000, 0x04, 0x00⟩)

/-! ## The step and the dispatch -/

/-- R22, R231: when the frame registers hold a well-formed command and the engine is at its first line, a step is that
command; and so is the first step after the frame of a word of the opcode table has been received (R166). -/
def Obligations.StepRunsTheDecodedCommand : Prop :=
  ∀ (s : State) (i : Instr), s.cfg.ok = true →
    (i.wf s.cfg = true → s.phase = .dispatching .start → s.cf = encodeFrame s.cfg i → step s = exec i s) ∧
    ∀ nbits w, s.cfg = Config.default → decodeTableWord nbits w = some i →
      step (s.withFetchWord nbits w) = exec i (s.withFetchWord nbits w)

/-- U21, R98: a configuration whose opcodes are not pairwise distinct is refused, in every phase. -/
def Obligations.StepRefusesAmbiguousOpcodes : Prop :=
  ∀ s : State, ¬ s.cfg.opc.assigned.Nodup → step s = .refused .badConfiguration

/-! ## The no-op class, the initialize class, unsupported commands -/

/-- R232 to R235: when the device is ready after the prologue, each of the four succeeds with a status and nothing
else: no call, no transfer, no service of the watchdog; DeviceState, the buffer and every other register are as they
were. Nothing is asked of the acknowledge. (That Correction and Mode-select are two commands, which both succeed, is
the spec's reading D3 and from general knowledge (log entry 14, PRESUMED): unsafe for the one that the device may
lack.) -/
def Obligations.NoOpClassOnlySendsSuccess : Prop :=
  ∀ (s : State) (a : Args) (i : Instr), i ∈ [.seek a, .correction a, .modeSelect a, .ship a] →
    StatusEnds s → (prologued s).dsReady = true →
    ∃ t, exec i s = .next t ∧ t.engine = (finished 0x00 (prologued s)).engine

/-- R236 to R239: when the device is ready after the prologue, each of the four re-probes the collaborator and
succeeds iff that succeeds; nothing else changes. (That the prologue's initialization comes besides is the spec's
decision D35 (log entry 26), and that the capacity is recorded modulo 2^32 its decision D16 (log entry 22).) -/
def Obligations.InitializeClassSucceedsIffInitDoes : Prop :=
  ∀ (s : State) (a : Args) (i : Instr), i ∈ [.testReady a, .formatDrive a, .verifyTrack a, .formatTrack a] →
    StatusEnds s → (prologued s).dsReady = true →
    ∃ t, exec i s = .next t ∧
      t.engine =
        (if (nextReply (prologued s)).ok = true then finished 0x00 (reinit (prologued s))
         else finished 0x02 (State.record (.raised .storageFatal) (reinit (prologued s)))).engine

/-- R240, R267: when the device is ready after the prologue, an unsupported command ends at once with the error
status; nothing else changes. -/
def Obligations.UnsupportedOnlySendsError : Prop :=
  ∀ (s : State) (o : Opc) (a : Args), StatusEnds s → (prologued s).dsReady = true →
    ∃ t, exec (.unsupported o a) s = .next t ∧
      t.engine = (finished 0x02 (State.record (.raised .unsupportedCommand) (prologued s))).engine

/-! ## The synthesized responses -/

/-- R260: when the device is ready after the prologue, Request-Sense re-initializes, puts the response for the
capacity as it then stands into the buffer, sends its first `LEN` bytes and succeeds, whether or not the
initialization did. (That it is sent and succeeds after a failed one, and that `LEN` below 4 cuts it, are the spec's
decisions D20 and D21 (log entry 25); that a device that was not ready is initialized twice, by the prologue and by the
command, is decision D35 (log entry 26), and that the capacity is recorded modulo 2^32 decision D16 (log entry 22).) -/
def Obligations.RequestSenseSendsTheCapacity : Prop :=
  ∀ (s : State) (a : Args), Cooperative s → (prologued s).dsReady = true →
    ∃ t, exec (.requestSense a) s = .next t ∧
      t.engine =
        (let u := reinit (prologued s)
         let r := senseResponse u.dsCapacity (max a.len.toNat 4)
         finished 0x00 (sent (r.take a.len.toNat) (memWrite r u))).engine

/-- R262: when the device is ready after the prologue, Inquiry puts `LEN` bytes into the buffer, the identification
record followed by zeros, sends them and succeeds, with no call of the collaborator. (The padding from byte 36 on is
90_conflicts.md C1 (log entry 10), and that `LEN` below 36 cuts the record is decision D21 (log entry 25).) -/
def Obligations.InquirySendsTheRecord : Prop :=
  ∀ (s : State) (a : Args), Cooperative s → (prologued s).dsReady = true →
    ∃ (t : State) (r : List Byte), exec (.inquiry a) s = .next t ∧ r.length = a.len.toNat ∧
      (∀ k, k < a.len.toNat → r[k]? = some (if k < 36 then (inquiryRecord s.cfg).getD k 0x00 else 0x00)) ∧
      t.engine = (finished 0x00 (sent r (memWrite r (prologued s)))).engine

/-- R265, R266, R264: when the device is ready after the prologue, Mode-sense puts its page into the buffer, sends all
of it whatever `LEN` says, and succeeds, with no call of the collaborator. -/
def Obligations.ModeSenseSendsItsWholePage : Prop :=
  ∀ (s : State) (a : Args), Cooperative s → (prologued s).dsReady = true →
    (∃ t, exec (.modeSense0 a) s = .next t ∧
      t.engine =
        (let r := modePage0 s.cfg (prologued s).dsCapacity
         finished 0x00 (sent r (memWrite r (prologued s)))).engine) ∧
    (∃ t, exec (.modeSense4 a) s = .next t ∧
      t.engine =
        (let r := modePage4 s.cfg (prologued s).dsCapacity
         finished 0x00 (sent r (memWrite r (prologued s)))).engine)

/-- R261: the layout of the Request-Sense response. -/
def Obligations.SenseResponseLayout : Prop :=
  ∀ (cap : BitVec 32) (n : Nat), 4 ≤ n →
    (senseResponse cap n).length = n ∧
    ((senseResponse cap n)[0]?).map BitVec.toNat = some 0x80 ∧
    ((senseResponse cap n)[1]?).map BitVec.toNat = some (cap.toNat / 65536 % 256) ∧
    ((senseResponse cap n)[2]?).map BitVec.toNat = some (cap.toNat / 256 % 256) ∧
    ((senseResponse cap n)[3]?).map BitVec.toNat = some (cap.toNat % 256) ∧
    ∀ k, 4 ≤ k → k < n → (senseResponse cap n)[k]? = some 0x00

/-- R263: the identification record is 36 bytes long, with its fields at the offsets of R263. (That it is 36 and not
31 bytes long is 90_conflicts.md C1.) -/
def Obligations.InquiryRecordLayout : Prop :=
  ∀ c : Config,
    (inquiryRecord c).length = 36 ∧ (inquiryRecord c).take 5 = [0x00, 0x00, 0x01, 0x00, 0x1F] ∧
    ((inquiryRecord c).drop 5).take 3 = c.inqVs.toList ∧ ((inquiryRecord c).drop 8).take 8 = c.inqVendor.toList ∧
    ((inquiryRecord c).drop 16).take 8 = c.inqProduct1.toList ∧
    ((inquiryRecord c).drop 24).take 8 = c.inqProduct2.toList ∧ (inquiryRecord c).drop 32 = c.inqRevision.toList

/-- R265, R266, R65: the pages hold the capacity, and the capacity in cylinders and the head count, big-endian, and
are 16 and 24 bytes long; every other byte is the template's. (The placement of page 4 is the spec's decision D7 (log
entry 9), the dropping of bits 31 to 24 decision D16 (log entry 22).) -/
def Obligations.ModePageLayout : Prop :=
  ∀ (c : Config) (cap : BitVec 32),
    (modePage0 c cap).length = 16 ∧ (modePage4 c cap).length = 24 ∧
    ((modePage0 c cap)[5]?).map BitVec.toNat = some (cap.toNat / 65536 % 256) ∧
    ((modePage0 c cap)[6]?).map BitVec.toNat = some (cap.toNat / 256 % 256) ∧
    ((modePage0 c cap)[7]?).map BitVec.toNat = some (cap.toNat % 256) ∧
    ((modePage4 c cap)[2]?).map BitVec.toNat = some (cap.toNat / c.ms4Heads.toNat / 65536 % 256) ∧
    ((modePage4 c cap)[3]?).map BitVec.toNat = some (cap.toNat / c.ms4Heads.toNat / 256 % 256) ∧
    ((modePage4 c cap)[4]?).map BitVec.toNat = some (cap.toNat / c.ms4Heads.toNat % 256) ∧
    (modePage4 c cap)[5]? = some c.ms4Heads ∧
    (∀ k, k < 5 ∨ 8 ≤ k → (modePage0 c cap)[k]? = c.ms0Template.toList[k]?) ∧
    (∀ k, k < 2 ∨ 6 ≤ k → (modePage4 c cap)[k]? = c.ms4Template.toList[k]?)

/-! ## The block commands -/

/-- R290, R291, R292, R322: when the device is ready after the prologue and `LBA + LEN` exceeds its capacity, either
command ends with the error status and nothing else: no call of the collaborator, no transfer, no register but those
of the status. (That `CF` keeps the discarded frame is the model's choice: log entry 35.) -/
def Obligations.RangeErrorTouchesNothing : Prop :=
  ∀ (s : State) (a : Args) (i : Instr), i ∈ [.readBlock a, .writeBlock a] → StatusEnds s →
    (prologued s).dsReady = true → (prologued s).dsCapacity.toNat < a.lba.toNat + a.len.toNat →
    ∃ t, exec i s = .next t ∧ t.engine = (finished 0x02 (State.record (.raised .range) (prologued s))).engine

/-- R291, R293: in range, when the device is ready after the prologue, with a collaborator that answers each of the
`LEN` block reads with success, Read-block does, for each block in ascending order: service the watchdog, read it,
send its 512 bytes; then it succeeds. DeviceState is unchanged, and the buffer holds the last block read. (That `LEN =
0` is no block, and that the indices do not wrap, are the spec's decisions D17 and D29 (log entry 23).) -/
def Obligations.ReadBlockSendsEveryBlock : Prop :=
  ∀ (s : State) (a : Args) (rs rest : List CollReply), Cooperative s → (prologued s).dsReady = true →
    a.lba.toNat + a.len.toNat ≤ (prologued s).dsCapacity.toNat →
    (prologued s).replies = rs ++ rest → rs.length = a.len.toNat → (∀ r ∈ rs, r.ok = true) →
    ∃ t, exec (.readBlock a) s = .next t ∧ Ended s t ∧
      t.log = (readTrace s.cfg a.lba.toNat rs ++ statusTrace 0x00).reverse ++ (prologued s).log ∧
      t.replies = rest ∧ t.draws = (prologued s).draws ∧ t.dsReady = true ∧ t.dsCapacity = (prologued s).dsCapacity ∧
      t.buf = rs.foldl (fun m r => Memory.writeBytes m 0 r.data.toList) s.buf

/-- R291, R210, R211, R391: in range, when the device is ready after the prologue, with a collaborator that answers
the first reads with success and then fails every call, Read-block has sent exactly the blocks read before, makes
three attempts on the next one and one re-initialization, and ends with the error status, the device not ready and the
capacity as it was. (The form of the retry is the spec's decision D18 (log entry 24).) -/
def Obligations.ReadBlockStopsAtAFatalBlock : Prop :=
  ∀ (s : State) (a : Args) (rs rest : List CollReply) (x y z w : CollReply), Cooperative s →
    (prologued s).dsReady = true → a.lba.toNat + a.len.toNat ≤ (prologued s).dsCapacity.toNat →
    (prologued s).replies = rs ++ x :: y :: z :: w :: rest → rs.length < a.len.toNat → (∀ r ∈ rs, r.ok = true) →
    x.ok = false → y.ok = false → z.ok = false → w.ok = false →
    ∃ t, exec (.readBlock a) s = .next t ∧ Ended s t ∧
      t.log =
        (readTrace s.cfg a.lba.toNat rs ++ [Event.wdgService] ++
          fatalTrace s.cfg (.collRead (a.lba.toNat + rs.length) false) ++ [Event.raised .storageFatal] ++
          statusTrace 0x02).reverse ++ (prologued s).log ∧
      t.replies = rest ∧ t.dsReady = false ∧ t.dsCapacity = (prologued s).dsCapacity

/-- R291, R294: in range, when the device is ready after the prologue, whatever the collaborator answers, Read-block
ends with one status; the number of bytes it has driven before it is 512 for each block sent; it is the success status
iff every block was sent, and with the error status the device is not ready. -/
def Obligations.ReadBlockSendsWholeBlocks : Prop :=
  ∀ (s : State) (a : Args), Cooperative s → (prologued s).dsReady = true →
    a.lba.toNat + a.len.toNat ≤ (prologued s).dsCapacity.toNat →
    ∃ (t : State) (tr : List Event) (n : Nat), exec (.readBlock a) s = .next t ∧ Ended s t ∧
      tr.countP (fun e => e matches .droveData _) = 512 * n ∧
      (n = a.len.toNat ∧ t.log = (tr ++ statusTrace 0x00).reverse ++ (prologued s).log ∨
        n < a.len.toNat ∧
          t.log = (tr ++ [Event.raised .storageFatal] ++ statusTrace 0x02).reverse ++ (prologued s).log ∧
          t.dsReady = false)

/-- R292, R293: in range, when the device is ready after the prologue and has released the data lines, with a
collaborator that answers each of the `LEN` block writes with success, Write-block does, for each block in ascending
order: service the watchdog, receive 512 bytes, write exactly those bytes as that block; then it succeeds. DeviceState
is unchanged. (That `LEN = 0` is no block, and that the indices do not wrap, are the spec's decisions D17 and D29 (log
entry 23).) -/
def Obligations.WriteBlockWritesWhatItReceives : Prop :=
  ∀ (s : State) (a : Args) (rs rest : List CollReply), Cooperative s → (prologued s).dsReady = true →
    s.dOut = .released →
    a.lba.toNat + a.len.toNat ≤ (prologued s).dsCapacity.toNat →
    (prologued s).replies = rs ++ rest → rs.length = a.len.toNat → (∀ r ∈ rs, r.ok = true) →
    ∃ (t : State) (ds : List (List Byte)), exec (.writeBlock a) s = .next t ∧ Ended s t ∧
      ds.length = a.len.toNat ∧ (∀ d ∈ ds, d.length = 512) ∧
      t.log = (writeTrace s.cfg a.lba.toNat ds ++ statusTrace 0x00).reverse ++ (prologued s).log ∧
      t.replies = rest ∧ t.draws = (prologued s).draws ∧ t.dsReady = true ∧ t.dsCapacity = (prologued s).dsCapacity ∧
      t.buf = ds.foldl (fun m d => Memory.writeBytes m 0 d) s.buf

/-- R292, R208, R210, R211: in range, when the device is ready after the prologue and has released the data lines,
with a collaborator that answers the first writes with success and then fails every call, Write-block has received one
block more than it wrote, offers that block's same 512 bytes in each of three attempts, re-initializes once, and ends
with the error status, the device not ready and the capacity as it was. (The form of the retry is the spec's decision
D18 (log entry 24).) -/
def Obligations.WriteBlockStopsAtAFatalBlock : Prop :=
  ∀ (s : State) (a : Args) (rs rest : List CollReply) (x y z w : CollReply), Cooperative s →
    (prologued s).dsReady = true → s.dOut = .released →
    a.lba.toNat + a.len.toNat ≤ (prologued s).dsCapacity.toNat →
    (prologued s).replies = rs ++ x :: y :: z :: w :: rest → rs.length < a.len.toNat → (∀ r ∈ rs, r.ok = true) →
    x.ok = false → y.ok = false → z.ok = false → w.ok = false →
    ∃ (t : State) (ds : List (List Byte)) (d : List Byte), exec (.writeBlock a) s = .next t ∧ Ended s t ∧
      ds.length = rs.length ∧ (∀ e ∈ ds, e.length = 512) ∧ d.length = 512 ∧
      t.log =
        (writeTrace s.cfg a.lba.toNat ds ++ [Event.wdgService] ++ recvTrace s.cfg d ++
          fatalTrace s.cfg (.collWrite (a.lba.toNat + rs.length) d false) ++ [Event.raised .storageFatal] ++
          statusTrace 0x02).reverse ++ (prologued s).log ∧
      t.replies = rest ∧ t.dsReady = false ∧ t.dsCapacity = (prologued s).dsCapacity

/-- R292, R390: in range, when the device is ready after the prologue and has released the data lines, whatever the
collaborator answers, Write-block ends with one status; the number of bytes it has sampled before it is 512 for each
block received; with the success status every block was received, and with the error status at least one was and the
device is not ready. -/
def Obligations.WriteBlockReceivesWholeBlocks : Prop :=
  ∀ (s : State) (a : Args), Cooperative s → (prologued s).dsReady = true → s.dOut = .released →
    a.lba.toNat + a.len.toNat ≤ (prologued s).dsCapacity.toNat →
    ∃ (t : State) (tr : List Event) (n : Nat), exec (.writeBlock a) s = .next t ∧ Ended s t ∧
      tr.countP (fun e => e matches .sampledData _) = 512 * n ∧
      (n = a.len.toNat ∧ t.log = (tr ++ statusTrace 0x00).reverse ++ (prologued s).log ∨
        1 ≤ n ∧ n ≤ a.len.toNat ∧
          t.log = (tr ++ [Event.raised .storageFatal] ++ statusTrace 0x02).reverse ++ (prologued s).log ∧
          t.dsReady = false)

/-! ## The prologue and the end of every command -/

/-- R231, R325, R327: on a device that is not ready, when the collaborator's `init` fails, every command ends with the
error status, whatever it is: no transfer, no other call. (That `CF` keeps the discarded frame is the model's choice:
log entry 35.) -/
def Obligations.NotReadyFailsEveryCommand : Prop :=
  ∀ (s : State) (i : Instr), StatusEnds s → s.dsReady = false → (nextReply s).ok = false →
    ∃ t, exec i s = .next t ∧ t.engine = (finished 0x02 (State.record (.raised .notReady) (reinit s))).engine

/-- R192, R241, R191: with a cooperative peer, every command, on every device state and with every answer of the
collaborator, ends in exactly one status, which is 0 or 2 and is the last thing it does. (The premise on CS is the one
of the default `LEVEL`, decision D15 (log entry 16).) -/
def Obligations.EveryCommandEndsInOneStatus : Prop :=
  ∀ (s : State) (i : Instr), Cooperative s → s.dOut = .released →
    ∃ (t : State) (tr : List Event) (code : Byte), exec i s = .next t ∧ Ended s t ∧ (code = 0x00 ∨ code = 0x02) ∧
      t.log = (tr ++ statusTrace code).reverse ++ s.log ∧ Event.assertedIrq ∉ tr

/-- R193: under `EDGE`, a command whose peer lets `ACK` come to rest asserted and keeps `CS` deasserted comes to the
first half of the status wait, with its status on the lines and IRQ asserted, and when the peer then asserts `CS` and
deasserts it, the command ends. It has done what it does under `LEVEL`: its status is the same, and so are its record up
to the status and the engine it leaves, with the two waits of the handshake in place of the one. What that is the
statements on each command say. (`EDGE` is the alternative of the spec's decision D15 (log entry 16).) -/
def Obligations.EdgeCommandsEndWhenTheStatusIsRead : Prop :=
  ∀ (s : State) (i : Instr), s.cfg.ok = true → s.cfg.statusWait = .edge → NoReset s → s.dOut = .released →
    (restPins s.pins s.env).ack = .asserted → s.pins.cs = .deasserted →
    (∀ p : Pins, EnvEvent.peer p ∈ s.env → p.cs = .deasserted) →
    ∃ (t v : State) (tr : List Event) (code : Byte), exec i s = .next t ∧ exec i s.underLevel = .next v ∧
      v.log = (tr ++ statusTrace code).reverse ++ s.log ∧ (code = 0x00 ∨ code = 0x02) ∧
      t.phase = .sendingStatus .asserted ∧ t.dOut = .drive code ∧ t.irqOut = .asserted ∧ t.led = false ∧
      t.guard = true ∧
      ∀ a d : Pins, a.cs = .asserted → d.cs = .deasserted →
        ∃ u, step { t with env := [.peer a, .peer d] } = .next u ∧ Ended s u ∧
          u.engine =
            ({ v with cfg := s.cfg, log := (tr ++ edgeStatusTrace code).reverse ++ s.log } : State).engine

/-- R23, R144, R339: a command left in a wait goes on from it as if it had never stopped: with any schedule `e` the next
step does what the command would have done with `e` scheduled from the wait on (and the peer's lines held until then,
for the number `k` of atomic steps that the command takes after its own schedule is over). (That the engine can be left
in a wait is the model's choice (log entries 5 and 40).) -/
def Obligations.WaitsResumeTheCommand : Prop :=
  ∀ (s t : State) (i : Instr), s.cfg.ok = true → NoReset s → exec i s = .next t → t.phase ≠ .idle →
    ∃ k, ∀ e : List EnvEvent,
      step { t with env := e } = exec i { s with env := s.env ++ List.replicate k (.peer t.pins) ++ e }

/-- R339: a command that neither ends nor is cut short by a reset is left in one of the three waits that `Dispatching`
and `SendingStatus` have, with the guard held and the peer's lines at the level that does not end it. (That the engine
can be left in a wait is the model's choice (log entries 5 and 40).) -/
def Obligations.CommandsHangOnlyInTheWaits : Prop :=
  ∀ (s t : State) (i : Instr), NoReset s → exec i s = .next t →
    t.phase = .idle ∨
      (Hung t ∧ t.guard = true ∧ ((∃ p, t.phase = .dispatching p) ∨ ∃ p, t.phase = .sendingStatus p))

/-- The peer's timing has no part in a command that receives nothing, which is every command but a Write-block that is
in range, of at least one block, on a device that the prologue leaves ready: two runs from the same engine, each with
its own cooperative peer, leave the same engine (R8, R71). (The level of description is the spec's decision D1 (log
entry 1).) -/
def Obligations.PeerTimingHasNoPart : Prop :=
  ∀ (s u t v : State) (i : Instr),
    (∀ a, i = .writeBlock a → (prologued s).dsReady = false ∨ a.len = 0 ∨
      (prologued s).dsCapacity.toNat < a.lba.toNat + a.len.toNat) →
    Cooperative s → Cooperative u → s.engine = u.engine → exec i s = .next t → exec i u = .next v →
    t.engine = v.engine

/-! ## Frames -/

/-- The frame of the commands that move no data (R232 to R240, R75): whatever the peer does and wherever the command
is left, the configuration, the frame registers, `BI`, the loop registers and every byte of the buffer are unchanged;
and, but for the initialize class and a device that was not ready, DeviceState and the collaborator's answers are too.
-/
def Obligations.FrameOfCommandsWithoutData : Prop :=
  ∀ (s t : State) (i : Instr), NoReset s → exec i s = .next t →
    (∃ a o, i ∈ [.seek a, .correction a, .modeSelect a, .ship a, .unsupported o a, .testReady a, .formatDrive a,
      .verifyTrack a, .formatTrack a]) →
    t.cfg = s.cfg ∧ t.cf = s.cf ∧ t.bi = s.bi ∧ t.blk = s.blk ∧ t.cnt = s.cnt ∧ t.rem = s.rem ∧
    (∀ k, Memory.read t.buf k = Memory.read s.buf k) ∧
    (s.dsReady = true → t.dsReady = false → t.dsCapacity = s.dsCapacity) ∧
    ((∃ a o, i ∈ [.seek a, .correction a, .modeSelect a, .ship a, .unsupported o a]) → s.dsReady = true →
      t.dsReady = true ∧ t.dsCapacity = s.dsCapacity ∧ t.replies = s.replies ∧ t.draws = s.draws)

/-- The frame of the commands that send a response (R260 to R266, R69): the configuration, the frame registers, `BI`
and the loop registers are unchanged; every byte of the buffer beyond the response is; and, but for Request-Sense and
a device that was not ready, DeviceState and the collaborator's answers are too. -/
def Obligations.FrameOfResponses : Prop :=
  ∀ (s t : State) (i : Instr) (a : Args), NoReset s → exec i s = .next t →
    i ∈ [.requestSense a, .inquiry a, .modeSense0 a, .modeSense4 a] →
    t.cfg = s.cfg ∧ t.cf = s.cf ∧ t.bi = s.bi ∧ t.blk = s.blk ∧ t.cnt = s.cnt ∧ t.rem = s.rem ∧
    (∀ k, (i = .requestSense a → max a.len.toNat 4 ≤ k) → (i = .inquiry a → a.len.toNat ≤ k) →
      (i = .modeSense0 a → 16 ≤ k) → (i = .modeSense4 a → 24 ≤ k) →
      Memory.read t.buf k = Memory.read s.buf k) ∧
    (s.dsReady = true → t.dsReady = false → t.dsCapacity = s.dsCapacity) ∧
    (i ≠ .requestSense a → s.dsReady = true →
      t.dsReady = true ∧ t.dsCapacity = s.dsCapacity ∧ t.replies = s.replies ∧ t.draws = s.draws)

/-- The frame of the block commands (R291, R292): the configuration, the frame registers and `BI` are unchanged, and
so is every address outside the block `BUF[0..511]`; out of range, on a ready device, so are the loop registers,
DeviceState, the collaborator's answers and every byte of the buffer. -/
def Obligations.FrameOfBlockCommands : Prop :=
  ∀ (s t : State) (i : Instr) (a : Args), NoReset s → exec i s = .next t → i ∈ [.readBlock a, .writeBlock a] →
    t.cfg = s.cfg ∧ t.cf = s.cf ∧ t.bi = s.bi ∧
    (∀ k, 512 ≤ k → Memory.read t.buf k = Memory.read s.buf k) ∧
    (s.dsReady = true → s.dsCapacity.toNat < a.lba.toNat + a.len.toNat →
      t.blk = s.blk ∧ t.cnt = s.cnt ∧ t.rem = s.rem ∧ t.dsReady = true ∧ t.dsCapacity = s.dsCapacity ∧
      t.replies = s.replies ∧ t.draws = s.draws ∧ ∀ k, Memory.read t.buf k = Memory.read s.buf k)

/-! ## The Bus Signal Layer and the transfers -/

/-- R121 to R124: each primitive sets the driver its rule names, at once, and leaves the others; a pulse leaves DRQ
released. -/
def Obligations.PrimitivesSetTheirDrivers : Prop :=
  ∀ (s : State) (l : LineSet) (v : Byte) (n : Nat), NoReset s →
    (∃ t, release l s = .done t ∧ t.dOut = (if l.d then .released else s.dOut) ∧
      t.drqOut = (if l.drq then .released else s.drqOut) ∧ t.irqOut = (if l.irq then .released else s.irqOut)) ∧
    (∃ t, driveData v s = .done t ∧ t.dOut = .drive v ∧ t.drqOut = s.drqOut ∧ t.irqOut = s.irqOut) ∧
    (∃ t, pulseLow n s = .done t ∧ t.dOut = s.dOut ∧ t.drqOut = .released ∧ t.irqOut = s.irqOut ∧
      t.log = .pulsedDrq n :: s.log) ∧
    (∃ t, assertIrq s = .done t ∧ t.dOut = s.dOut ∧ t.drqOut = s.drqOut ∧ t.irqOut = .asserted)

/-- R141, R145, R148: a `Send` drives each byte of the buffer in order, pulses, and waits for its acknowledge, all
under the guard, and leaves the lines released and the guard clear; nothing else of the engine changes. (The guard's
points are the spec's decision D14 (log entry 21).) -/
def Obligations.SendDrivesTheBufferInOrder : Prop :=
  ∀ (s : State) (n : Nat) (x : AfterSend), NoReset s → (restPins s.pins s.env).ack = .asserted →
    ∃ t, send n x s = .done t ∧ t.engine = (sent (Memory.bytes s.buf n) s).engine

/-- R142, R145, R148: a `Receive` pulses, samples and waits for each byte, all under the guard, stores what it sampled
in order from `BUF[0]`, and leaves the lines released and the guard clear; nothing else of the engine changes. (The
guard's points are the spec's decision D14 (log entry 21).) -/
def Obligations.ReceiveStoresWhatItSamples : Prop :=
  ∀ (s : State) (n : Nat), NoReset s → s.dOut = .released → (restPins s.pins s.env).ack = .asserted →
    ∃ (t : State) (l : List Byte), receive n s = .done t ∧ l.length = n ∧ t.engine = (stored l s).engine ∧
      Memory.bytes t.buf n = l ∧ ∀ k, n ≤ k → Memory.read t.buf k = Memory.read s.buf k

/-- R148: on return from either transfer, whatever the peer did, the data lines and DRQ are released and IRQ is as it
was. -/
def Obligations.TransfersLeaveTheLinesReleased : Prop :=
  ∀ (s t : State) (n : Nat) (x : AfterSend), NoReset s → n ≤ 512 → (send n x s = .done t ∨ receive n s = .done t) →
    t.dOut = .released ∧ t.drqOut = .released ∧ t.irqOut = s.irqOut

/-- R142, R383: the byte a `Receive` stores is the one on the lines at the sample after the pulse, whatever they hold
before it and when the acknowledge comes. (Which entry of the schedule the sample takes, and that the store is another
step, is a design choice (log entry 1).) -/
def Obligations.ReceiveSamplesBeforeTheAcknowledge : Prop :=
  ∀ (s : State) (g q d m r : Pins) (ws : List Pins) (es : List EnvEvent), s.dOut = .released →
    (∀ w ∈ ws, w.ack = .deasserted) → r.ack = .asserted →
    EnvEvent.watchdog ∉ es →
    s.env = [.peer g, .peer q, .peer d, .peer m] ++ ws.map .peer ++ [.peer r] ++ es →
    ∃ t, receive 1 s = .done t ∧ Memory.read t.buf 0 = d.data ∧
      ∀ k, 1 ≤ k → Memory.read t.buf k = Memory.read s.buf k

/-! ## The status handshake -/

/-- R190, R193, R195: under `LEVEL`, once CS comes to rest deasserted, the status handshake clears the indicator,
drives the code before it asserts IRQ, waits, releases every line and then the guard, and ends in `Idle`. (`LEVEL` and
the guard's points are the spec's decisions D15 and D14 (log entries 16 and 21).) -/
def Obligations.StatusHandshakeUnderLevel : Prop :=
  ∀ (s : State) (code : Byte), NoReset s → s.cfg.statusWait = .level → (restPins s.pins s.env).cs = .deasserted →
    ∃ t, sendStatus code s = .done t ∧ t.engine = (finished code s).engine

/-- R190, R193: under `EDGE`, the wait of the handshake does not end on the level before the peer asserts CS, however
long that lasts: it goes through all of `ps`, ends its first half at the first sample `a` that has CS asserted, goes
through all of `qs`, and ends at the first sample `d` after it that has CS deasserted again. Then the lines and the guard
are released and the engine is in `Idle`, with what is left of the schedule, and nothing else changes. (`EDGE` and the
guard's points are the spec's decisions D15 and D14 (log entries 16 and 21), and that `CF` keeps the frame is the model's
choice (log entry 35). That five atomic steps, of one entry of the schedule each, come before the wait and four after it,
which find the peer at `restPins d (rest.take 4)`, is a design choice (log entry 1).) -/
def Obligations.StatusHandshakeUnderEdge : Prop :=
  ∀ (s : State) (code : Byte) (f w x y z a d : Pins) (ps qs : List Pins) (rest : List EnvEvent),
    s.cfg.statusWait = .edge →
    (∀ p ∈ ps, p.cs = .deasserted) → a.cs = .asserted → (∀ p ∈ qs, p.cs = .asserted) → d.cs = .deasserted →
    EnvEvent.watchdog ∉ rest.take 4 →
    s.env =
      [.peer f, .peer w, .peer x, .peer y, .peer z] ++ ps.map .peer ++ [.peer a] ++ qs.map .peer ++ [.peer d] ++ rest →
    sendStatus code s = .done (State.after (edgeStatusTrace code)
      { s with
        env := rest.drop 4, pins := restPins d (rest.take 4)
        phase := .idle, statusDone := true, led := false, guard := false
        dOut := .released, drqOut := .released, irqOut := .released })

/-- R195: the indicator is cleared before the status byte is driven and stays clear, also in a handshake that never
completes: what is recorded from its first step on is that step and entries that do not set the indicator. -/
def Obligations.IndicatorIsClearInTheHandshake : Prop :=
  ∀ (s t : State) (code : Byte), NoReset s → (sendStatus code s = .done t ∨ sendStatus code s = .halt t) →
    t.led = false ∧
      ∃ tr : List Event, t.log = (.ledSet false :: tr).reverse ++ s.log ∧ Event.droveData code ∈ tr ∧
        ∀ b, Event.ledSet b ∉ tr

/-! ## The Storage Access Layer -/

/-- R206: `Initialize` calls `init`, and only when that succeeds asks for the capacity and records it; DeviceState is
ready iff `init` succeeded; a failed one leaves the capacity; nothing else of the engine changes. Twice in a row with
a healthy collaborator, the device is ready both times, with the same capacity. (That the recorded capacity has 32 bits,
an answer being reduced modulo 2^32, is the spec's decision D16, a design choice (log entry 22).) -/
def Obligations.InitializeRecordsTheAnswers : Prop :=
  ∀ (s : State) (r : CollReply) (rs : List CollReply), NoReset s → s.replies = r :: rs →
    (r.ok = false → ∃ t, initDevice s = .done (false, t) ∧
      t.engine = (State.after [.collInit false] { s with dsReady := false, replies := rs }).engine) ∧
    (∀ (q : CollReply) (qs : List CollReply), r.ok = true → rs = q :: qs → ∃ t, initDevice s = .done (true, t) ∧
      t.engine =
        (State.after [.collInit true, .collCapacity q.capacity]
          { s with dsReady := true, dsCapacity := BitVec.ofNat 32 q.capacity, replies := qs }).engine) ∧
    (∀ (q r' q' : CollReply) (qs : List CollReply), r.ok = true → r'.ok = true → q'.capacity = q.capacity →
      rs = q :: r' :: q' :: qs → ∃ t u, initDevice s = .done (true, t) ∧ initDevice t = .done (true, u) ∧
        t.dsReady = true ∧ u.dsReady = true ∧ u.dsCapacity = t.dsCapacity)

/-- R210, R211: whatever the collaborator answers, a block access makes at most 5 attempts, 2 re-initializations and 4
services of the watchdog, ends, touches no line, no flag and no frame register, and on failure leaves the device not
ready. (The form of the retry is the spec's decision D18 (log entry 24).) -/
def Obligations.RetryIsBounded : Prop :=
  ∀ (s : State) (b : Nat), NoReset s →
    ∀ op ∈ [readBlock b, writeBlock b],
      ∃ (ok : Bool) (t : State) (tr : List Event), op s = .done (ok, t) ∧ t.log = tr.reverse ++ s.log ∧
        tr.countP Event.isAccess ≤ 5 ∧ tr.countP Event.isInit ≤ 2 ∧ tr.count .wdgService ≤ 4 ∧
        (∀ e ∈ tr, e.isStorage = true) ∧ (ok = false → t.dsReady = false) ∧
        t.outputs = s.outputs ∧ t.drqOut = s.drqOut ∧ t.cf = s.cf ∧ t.cfg = s.cfg ∧ t.phase = s.phase

/-- R213: the worked traces of the retry procedure, for a write of block `b`: the same bytes are offered in each
attempt. (The form of the retry and the order of its gap are the spec's decisions D18 and D32 (log entry 24).) -/
def Obligations.RetryFollowsTheWorkedTraces : Prop :=
  ∀ (s : State) (b : Nat) (f t : CollReply), NoReset s → f.ok = false → t.ok = true →
    let w := fun ok => Event.collWrite b (Memory.bytes s.buf 512) ok
    let g := gapTrace s.cfg
    let i := [Event.collInit true, Event.collCapacity t.capacity]
    let j := [Event.collInit false]
    ∀ row ∈ [
      ([t], [w true], true, s.dsReady),
      ([f, t], [w false] ++ g ++ [w true], true, s.dsReady),
      ([f, f, t], [w false] ++ g ++ [w false] ++ g ++ [w true], true, s.dsReady),
      ([f, f, f, t, t, t], [w false] ++ g ++ [w false] ++ g ++ [w false] ++ g ++ i ++ [w true], true, true),
      ([f, f, f, f], [w false] ++ g ++ [w false] ++ g ++ [w false] ++ g ++ j, false, false),
      ([f, f, f, t, t, f, t, t, f],
        [w false] ++ g ++ [w false] ++ g ++ [w false] ++ g ++ i ++ [w false] ++ g ++ i ++ [w false], false, false),
      ([f, f, f, t, t, f, f],
        [w false] ++ g ++ [w false] ++ g ++ [w false] ++ g ++ i ++ [w false] ++ g ++ j, false, false)],
    ∀ rest, s.replies = row.1 ++ rest →
      ∃ u, writeBlock b s = .done (row.2.2.1, u) ∧ u.log = row.2.1.reverse ++ s.log ∧ u.dsReady = row.2.2.2 ∧
        u.replies = rest ∧ u.buf = s.buf

/-! ## Reception -/

/-- R161: an iteration of `Idle` services the watchdog, then samples CS and A1 at one instant, and leaves `Idle` iff
both are asserted; nothing else of the engine changes. (The one sample instant and the order are the spec's decisions
D12 and D34 (log entry 19). That a step is an iteration, and the sample its second atomic step, is a design choice (log
entry 1).) -/
def Obligations.IdlePollsForBothLines : Prop :=
  ∀ s : State, s.cfg.ok = true → NoReset s → s.phase = .idle →
    ∃ t, step s = .next t ∧
      t.engine =
        (State.after [.wdgService, .sampledLines (pinsAt 2 s).cs (pinsAt 2 s).a1]
          { s with
            phase := if (pinsAt 2 s).cs = .asserted ∧ (pinsAt 2 s).a1 = .asserted then .addressMatch else .idle }).engine

/-- R162, R163, R164: `AddressMatch` keeps the opcode of the byte on the lines and starts the reception of five more
bytes, with the guard and the indicator set, iff its ID bits are this device's; otherwise only the phase changes.
(What `CF[0]` keeps, the guard's point and the immediate return are the spec's decisions D13, D14 and D33 (log entries
19, 20 and 21). That the sample is the first atomic step of the iteration is a design choice (log entry 1).) -/
def Obligations.AddressMatchFiltersTheId : Prop :=
  ∀ s : State, s.cfg.ok = true → NoReset s → s.phase = .addressMatch → s.dOut = .released →
    ∃ t, step s = .next t ∧
      t.engine =
        (if (pinsAt 1 s).data.toNat / 32 = s.cfg.deviceId.toNat then
          State.after [.sampledData (pinsAt 1 s).data, .guardSet true, .ledSet true]
            { s with
              cf := { s.cf with b0 := (pinsAt 1 s).data &&& 0x1F }
              guard := true, led := true, bi := 1, phase := .receivingBytes false }
         else State.after [.sampledData (pinsAt 1 s).data] { s with phase := .idle }).engine

/-- R165, R170: an iteration of `ReceivingBytes` asserts IRQ, unless it has been left in the strobe wait with IRQ
asserted already (`waiting`); then it waits for the strobe, releases IRQ, captures the byte then on the lines into
`CF[BI]`, and goes on to the next byte, or to `Complete` after byte 5. (That the line is IRQ and the strobe CS alone are
the spec's decisions D10 and D11 (log entries 18 and 19), and that `BI` stays 5 is the model's choice (log entry 35).
How many entries of the schedule the iteration takes is a design choice too (log entry 1): each atomic step takes one,
and the sample and the write of `CF[BI]` are two steps.) -/
def Obligations.ReceivingBytesCapturesAfterTheStrobe : Prop :=
  ∀ (s : State) (waiting : Bool) (q p r d f g : Pins) (ws : List Pins) (es : List EnvEvent), s.cfg.ok = true →
    s.phase = .receivingBytes waiting → s.dOut = .released → (∀ w ∈ ws, w.cs = .deasserted) → p.cs = .asserted →
    s.env =
      (if waiting then [] else [.peer q]) ++ ws.map .peer ++ [.peer p, .peer r, .peer d, .peer f, .peer g] ++ es →
    step s = .next (State.after
      ((if waiting then [] else [.assertedIrq]) ++ [.waited .csAsserted, .released .irqOnly, .sampledData d.data])
      { s with
        pins := g, env := es, irqOut := .released, cf := s.cf.set s.bi d.data
        bi := if s.bi = 5 then 5 else s.bi + 1
        phase := if s.bi = 5 then .complete else .receivingBytes false })

/-- R166: `Complete` clears the guard and goes to the first line of the command, with the indicator and the frame as
they are; and no other phase goes there. -/
def Obligations.CompleteHandsTheFrameOver : Prop :=
  (∀ s : State, s.cfg.ok = true → NoReset s → s.phase = .complete →
    ∃ t, step s = .next t ∧
      t.engine =
        (State.after [.guardSet false]
          { s with guard := false, statusDone := false, phase := .dispatching .start }).engine) ∧
  ∀ s t : State, NoReset s → step s = .next t → t.phase = .dispatching .start → s.phase = .complete

/-- R90, R162, R165, R166, R167: when the peer puts byte 0 on the lines, with this device's ID, and then each of the
five other bytes with its strobe, seven steps from `AddressMatch` on bring the engine to the first line of the
command, with the six bytes in the frame registers (the ID bits of byte 0 cleared: D13), the indicator on, the guard
released and nothing driven. (The lines of the handshake are the spec's decisions D10 and D11 (log entries 18 and 19).
That these are seven model steps with six entries of the schedule each is a design choice (log entry 1): a step is an
iteration, each atomic step takes an entry, and the sample and the write of a byte are two atomic steps.) -/
def Obligations.ReceptionAssemblesTheFrame : Prop :=
  ∀ (s : State) (p : Pins) (b : Vector Pins 5) (es : List EnvEvent), s.cfg.ok = true → s.phase = .addressMatch →
    s.dOut = .released → p.data.toNat / 32 = s.cfg.deviceId.toNat → (∀ q ∈ b.toList, q.cs = .asserted) →
    s.env = List.replicate 6 (.peer p) ++ b.toList.flatMap (fun q => List.replicate 6 (.peer q)) ++ es →
    EnvEvent.watchdog ∉ es →
    ∃ t, Host.Core.run Sys2Proof.core 7 s = .next t ∧ t.phase = .dispatching .start ∧
      t.cf = ⟨p.data &&& 0x1F, b[0].data, b[1].data, b[2].data, b[3].data, b[4].data⟩ ∧
      t.led = true ∧ t.guard = false ∧ t.dOut = .released ∧ t.irqOut = .released ∧ t.statusDone = false ∧
      t.dsReady = s.dsReady ∧ t.dsCapacity = s.dsCapacity ∧ t.buf = s.buf ∧ t.replies = s.replies

/-! ## Hangs and resets -/

/-- R144, R339: in each of the four waits, while the peer holds its lines at the other level, every step leaves the
machine exactly where it is: the wait never ends and services no watchdog. (That a wait is a state that steps to
itself is the model's choice (log entry 5).) -/
def Obligations.WaitsHoldWhileTheLinesHold : Prop :=
  ∀ s : State, s.cfg.ok = true → Hung s → (∀ k n x, s.phase = .dispatching (.sendAck k n x) → n ≤ 512) →
    step s = .next s

/-- R336, R371: a watchdog reset, from any phase and at any step, abandons what was going on: the lines are released,
the flags cleared, the device not ready, and the engine is in `Idle`, or at the boot-time initialization when
`BOOT_INIT` is set. The first clause is of a reset before the next atomic step: nothing else is done, so no status is
sent (the record may have the ghost entry of an error that was about to be answered: log entry 38). The second is of a
reset at any place of the schedule that the run reaches (after the moves `ps`; the run takes a move `x` of the peer
there): what is recorded before the reset is what that run records up to there, and nothing comes after it. (That the
reset may come at any step is the spec's decision D25; the zeros of the registers that R371 leaves unspecified, and that
its lines take effect with the event, are the model's choice: log entries 2 and 31.) -/
def Obligations.WatchdogResetsFromAnyPhase : Prop :=
  (∀ (s : State) (es : List EnvEvent), s.cfg.ok = true → s.env = .watchdog :: es →
    (∀ k n x, s.phase = .dispatching (.sendAck k n x) → n ≤ 512) →
    ∃ (t : State) (tr : List Event), step s = .next t ∧ ResetInto s t (tr ++ s.log) ∧ (∀ e ∈ tr, ∃ k, e = .raised k) ∧
      t.env = es ∧ t.pins = s.pins ∧ t.replies = s.replies) ∧
  ∀ (s u : State) (ps : List Pins) (x : Pins) (es : List EnvEvent), s.cfg.ok = true →
    step { s with env := ps.map .peer ++ [.peer x] } = .next u → u.env = [] →
    ∃ (t : State) (l : List Event), step { s with env := ps.map .peer ++ .watchdog :: es } = .next t ∧
      ResetInto s t l ∧ s.log <:+ l ∧ l <:+ u.log ∧ t.env = es ∧ t.replies <:+ s.replies

/-- R371: at the boot line, which a reset with `BOOT_INIT` set leads to, a step is one `Initialize` and `Idle`
follows, whether or not it succeeded; nothing else of the engine changes. (`BOOT_INIT` is a parameter of the spec's
decision D24 (log entry 17), and that the capacity is recorded modulo 2^32 is its decision D16 (log entry 22).) -/
def Obligations.BootInitializesOnce : Prop :=
  ∀ s : State, s.cfg.ok = true → NoReset s → s.phase = .boot →
    ∃ t, step s = .next t ∧ t.engine = ({ reinit s with phase := .idle } : State).engine

/-! ## Whole-machine rules -/

/-- R8 to R38, R74, R126, R127, R93: every step keeps the invariant: the buffer in canonical form, the lines and flags
of each phase, the record in agreement with the outputs, and every recorded step taken with the guard as R74 says.
(The guard's points are the spec's decision D14 (log entry 21).) -/
def Obligations.StepKeepsTheInvariant : Prop :=
  ∀ s t : State, s.Inv → step s = .next t → t.Inv

/-- R37, R371: the state after reset is the one the table of R37 gives, as far as it gives values, and it meets the
invariant. (The values of the registers it leaves unspecified are the model's: log entry 2.) (All its values but that
of `DS.ready` are the spec's decision D24.) -/
def Obligations.ResetIsTheTableOfR37 : Prop :=
  State.reset.phase = .idle ∧ State.reset.led = false ∧ State.reset.guard = false ∧ State.reset.dsReady = false ∧
    State.reset.dOut = .released ∧ State.reset.drqOut = .released ∧ State.reset.irqOut = .released ∧ State.reset.Inv

/-- R329 ("There is no crash/abort path in normal operation"): from a state that meets the invariant, with a good
configuration, a step answers a next state. (The refusal of a bad configuration and the fault that no run meets are
the model's (log entries 13 and 34).) -/
def Obligations.StepNeverStops : Prop :=
  ∀ s : State, s.Inv → s.cfg.ok = true → ∃ t, step s = .next t

/-- R38: the parameters are constant. (That the parameters are a field of the state is the model's choice (log entry
13).) -/
def Obligations.StepKeepsTheConfiguration : Prop :=
  ∀ s t : State, step s = .next t → t.cfg = s.cfg

/-- R75: the frame is immutable once dispatch begins: no step of a command or of its status writes `CF`. -/
def Obligations.FrameIsImmutableInDispatch : Prop :=
  ∀ s t : State, NoReset s → step s = .next t →
    ((∃ p, s.phase = .dispatching p) ∨ ∃ p, s.phase = .sendingStatus p) → t.cf = s.cf
end

