-- ==== Sys2Proof/Laws/Memory.lean ====
section
/-! SUPPORT. The laws of the TransferBuffer: read after write, writes elsewhere, and the canonical form. -/

namespace Sys2Proof.Machine

theorem read_erase (m : Memory) (a b : Nat) :
    Memory.read (Memory.erase m a) b = if b = a then Memory.unlisted else Memory.read m b := by
  induction m with
  | nil => simp [Memory.erase, Memory.read]
  | cons c m ih =>
    obtain ⟨k, w⟩ := c
    simp only [Memory.erase] at ih
    by_cases hk : k = a
    · subst hk
      by_cases hb : b = k <;> simp_all [Memory.erase, Memory.read]
    · by_cases hb : b = k
      · subst hb
        simp [Memory.erase, Memory.read, hk]
      · simp [Memory.erase, Memory.read, hk, hb, ih]

theorem read_insert (m : Memory) (a b : Nat) (v : Byte) (h : ∀ x ∈ m, x.1 ≠ a) :
    Memory.read (Memory.insert m a v) b = if b = a then v else Memory.read m b := by
  induction m with
  | nil => simp [Memory.insert, Memory.read]
  | cons c m ih =>
    obtain ⟨k, w⟩ := c
    have hk : k ≠ a := h (k, w) (by simp)
    have ih := ih fun x hx => h x (by simp [hx])
    unfold Memory.insert
    split
    · simp [Memory.read]
    · by_cases hb : b = k
      · subst hb
        simp [Memory.read, hk]
      · simp [Memory.read, hb, ih]

theorem erase_fst_ne (m : Memory) (a : Nat) : ∀ x ∈ Memory.erase m a, x.1 ≠ a := by
  intro x hx
  simp only [Memory.erase, List.mem_filter] at hx
  simpa using hx.2

/-- Reading after a write: the written byte at its address, the old byte everywhere else. -/
theorem read_write (m : Memory) (a b : Nat) (v : Byte) :
    Memory.read (Memory.write m a v) b = if b = a then v else Memory.read m b := by
  unfold Memory.write
  split
  · next h => rw [read_erase, h]
  · rw [read_insert _ _ _ _ (erase_fst_ne m a), read_erase]
    split <;> rfl

@[simp] theorem read_write_same (m : Memory) (a : Nat) (v : Byte) : Memory.read (Memory.write m a v) a = v := by
  simp [read_write]

theorem read_write_other (m : Memory) (a b : Nat) (v : Byte) (h : b ≠ a) :
    Memory.read (Memory.write m a v) b = Memory.read m b := by
  simp [read_write, h]

/-- Reading after a list of bytes has been written at rising addresses. -/
theorem read_writeBytes (m : Memory) (a b : Nat) (l : List Byte) :
    Memory.read (Memory.writeBytes m a l) b =
      if h : a ≤ b ∧ b - a < l.length then l[b - a] else Memory.read m b := by
  induction l generalizing m a with
  | nil => simp [Memory.writeBytes]
  | cons v l ih =>
    rw [Memory.writeBytes, ih]
    by_cases hb : b = a
    · subst hb
      simp
    · by_cases h : a + 1 ≤ b ∧ b - (a + 1) < l.length
      · have h' : a ≤ b ∧ b - a < (v :: l).length := by simp only [List.length_cons]; omega
        rw [dif_pos h, dif_pos h']
        have e : b - a = (b - (a + 1)) + 1 := by omega
        simp only [e, List.getElem_cons_succ]
      · have h' : ¬(a ≤ b ∧ b - a < (v :: l).length) := by simp only [List.length_cons]; omega
        rw [dif_neg h, dif_neg h', read_write_other _ _ _ _ hb]

/-- A byte beyond a list written from address 0 reads as before. -/
theorem read_writeBytes_beyond (m : Memory) (b : Nat) (l : List Byte) (h : l.length ≤ b) :
    Memory.read (Memory.writeBytes m 0 l) b = Memory.read m b := by
  rw [read_writeBytes, dif_neg]
  omega

@[simp] theorem length_bytes (m : Memory) (n : Nat) : (Memory.bytes m n).length = n := by
  simp [Memory.bytes]

/-- What is read back after a list has been written: its first bytes. -/
theorem bytes_writeBytes (m : Memory) (l : List Byte) (n : Nat) (h : n ≤ l.length) :
    Memory.bytes (Memory.writeBytes m 0 l) n = l.take n := by
  apply List.ext_getElem
  · simp [Nat.min_eq_left h]
  · intro i h1 h2
    have hi : i < l.length := by simp at h1; omega
    simp [Memory.bytes, read_writeBytes, hi]

theorem bytes_succ (m : Memory) (n : Nat) : Memory.bytes m (n + 1) = Memory.bytes m n ++ [Memory.read m n] := by
  simp [Memory.bytes, List.range_succ]

theorem bytes_congr (m m' : Memory) (n : Nat) (h : ∀ a < n, Memory.read m a = Memory.read m' a) :
    Memory.bytes m n = Memory.bytes m' n := by
  apply List.map_congr_left
  intro a ha
  exact h a (List.mem_range.1 ha)

/-! ## The canonical form -/

theorem wf_nil : Memory.wf [] := by simp [Memory.wf]

theorem wf_erase (m : Memory) (a : Nat) (h : Memory.wf m) : Memory.wf (Memory.erase m a) :=
  ⟨h.1.filter _, fun x hx => h.2 x (List.mem_of_mem_filter hx)⟩

theorem mem_insert (m : Memory) (a : Nat) (v : Byte) (x : Host.Cell) :
    x ∈ Memory.insert m a v ↔ x = (a, v) ∨ x ∈ m := by
  induction m with
  | nil => simp [Memory.insert]
  | cons c m ih =>
    unfold Memory.insert
    split
    · simp
    · rw [List.mem_cons, ih, List.mem_cons]
      tauto

theorem pairwise_insert (m : Memory) (a : Nat) (v : Byte) (h : m.Pairwise (fun x y => x.1 < y.1))
    (ha : ∀ x ∈ m, x.1 ≠ a) : (Memory.insert m a v).Pairwise (fun x y => x.1 < y.1) := by
  induction m with
  | nil => simp [Memory.insert]
  | cons c m ih =>
    obtain ⟨k, w⟩ := c
    have hk : k ≠ a := ha (k, w) (by simp)
    rw [List.pairwise_cons] at h
    unfold Memory.insert
    split
    · next hlt =>
      refine List.pairwise_cons.2 ⟨?_, List.pairwise_cons.2 h⟩
      intro x hx
      rcases List.mem_cons.1 hx with rfl | hx
      · exact hlt
      · exact Nat.lt_trans hlt (h.1 x hx)
    · refine List.pairwise_cons.2 ⟨?_, ih h.2 fun x hx => ha x (by simp [hx])⟩
      intro x hx
      rcases (mem_insert m a v x).1 hx with rfl | hx
      · exact lt_of_le_of_ne (by omega) hk
      · exact h.1 x hx

/-- A write keeps the canonical form. -/
theorem wf_write (m : Memory) (a : Nat) (v : Byte) (h : Memory.wf m) (ha : a < bufCap) :
    Memory.wf (Memory.write m a v) := by
  have he := wf_erase m a h
  unfold Memory.write
  split
  · exact he
  · next hv =>
    refine ⟨pairwise_insert _ _ _ he.1 (erase_fst_ne m a), ?_⟩
    intro x hx
    rcases (mem_insert _ _ _ _).1 hx with rfl | hx
    · exact ⟨hv, ha⟩
    · exact he.2 x hx

/-- Writing a list inside the buffer keeps the canonical form. -/
theorem wf_writeBytes (m : Memory) (a : Nat) (l : List Byte) (h : Memory.wf m) (ha : a + l.length ≤ bufCap) :
    Memory.wf (Memory.writeBytes m a l) := by
  induction l generalizing m a with
  | nil => exact h
  | cons v l ih =>
    simp only [List.length_cons] at ha
    exact ih _ _ (wf_write m a v h (by omega)) (by omega)

end Sys2Proof.Machine
end

