-- ==== Sys2Proof/Laws/State.lean ====
section
/-! SUPPORT. One lemma for each field and each named update of State: what it writes and what it leaves. -/

namespace Sys2Proof.Machine

variable (s : State)

@[simp] theorem record_cfg (e : Event) : (State.record e s).cfg = s.cfg := rfl
@[simp] theorem record_phase (e : Event) : (State.record e s).phase = s.phase := rfl
@[simp] theorem record_cf (e : Event) : (State.record e s).cf = s.cf := rfl
@[simp] theorem record_bi (e : Event) : (State.record e s).bi = s.bi := rfl
@[simp] theorem record_blk (e : Event) : (State.record e s).blk = s.blk := rfl
@[simp] theorem record_cnt (e : Event) : (State.record e s).cnt = s.cnt := rfl
@[simp] theorem record_rem (e : Event) : (State.record e s).rem = s.rem := rfl
@[simp] theorem record_led (e : Event) : (State.record e s).led = s.led := rfl
@[simp] theorem record_guard (e : Event) : (State.record e s).guard = s.guard := rfl
@[simp] theorem record_dsReady (e : Event) : (State.record e s).dsReady = s.dsReady := rfl
@[simp] theorem record_dsCapacity (e : Event) : (State.record e s).dsCapacity = s.dsCapacity := rfl
@[simp] theorem record_buf (e : Event) : (State.record e s).buf = s.buf := rfl
@[simp] theorem record_dOut (e : Event) : (State.record e s).dOut = s.dOut := rfl
@[simp] theorem record_drqOut (e : Event) : (State.record e s).drqOut = s.drqOut := rfl
@[simp] theorem record_irqOut (e : Event) : (State.record e s).irqOut = s.irqOut := rfl
@[simp] theorem record_statusDone (e : Event) : (State.record e s).statusDone = s.statusDone := rfl
@[simp] theorem record_pins (e : Event) : (State.record e s).pins = s.pins := rfl
@[simp] theorem record_env (e : Event) : (State.record e s).env = s.env := rfl
@[simp] theorem record_replies (e : Event) : (State.record e s).replies = s.replies := rfl
@[simp] theorem record_draws (e : Event) : (State.record e s).draws = s.draws := rfl
@[simp] theorem record_log (e : Event) : (State.record e s).log = (e :: s.log) := rfl

@[simp] theorem writeLed_cfg (b : Bool) : (State.writeLed b s).cfg = s.cfg := rfl
@[simp] theorem writeLed_phase (b : Bool) : (State.writeLed b s).phase = s.phase := rfl
@[simp] theorem writeLed_cf (b : Bool) : (State.writeLed b s).cf = s.cf := rfl
@[simp] theorem writeLed_bi (b : Bool) : (State.writeLed b s).bi = s.bi := rfl
@[simp] theorem writeLed_blk (b : Bool) : (State.writeLed b s).blk = s.blk := rfl
@[simp] theorem writeLed_cnt (b : Bool) : (State.writeLed b s).cnt = s.cnt := rfl
@[simp] theorem writeLed_rem (b : Bool) : (State.writeLed b s).rem = s.rem := rfl
@[simp] theorem writeLed_led (b : Bool) : (State.writeLed b s).led = b := rfl
@[simp] theorem writeLed_guard (b : Bool) : (State.writeLed b s).guard = s.guard := rfl
@[simp] theorem writeLed_dsReady (b : Bool) : (State.writeLed b s).dsReady = s.dsReady := rfl
@[simp] theorem writeLed_dsCapacity (b : Bool) : (State.writeLed b s).dsCapacity = s.dsCapacity := rfl
@[simp] theorem writeLed_buf (b : Bool) : (State.writeLed b s).buf = s.buf := rfl
@[simp] theorem writeLed_dOut (b : Bool) : (State.writeLed b s).dOut = s.dOut := rfl
@[simp] theorem writeLed_drqOut (b : Bool) : (State.writeLed b s).drqOut = s.drqOut := rfl
@[simp] theorem writeLed_irqOut (b : Bool) : (State.writeLed b s).irqOut = s.irqOut := rfl
@[simp] theorem writeLed_statusDone (b : Bool) : (State.writeLed b s).statusDone = s.statusDone := rfl
@[simp] theorem writeLed_pins (b : Bool) : (State.writeLed b s).pins = s.pins := rfl
@[simp] theorem writeLed_env (b : Bool) : (State.writeLed b s).env = s.env := rfl
@[simp] theorem writeLed_replies (b : Bool) : (State.writeLed b s).replies = s.replies := rfl
@[simp] theorem writeLed_draws (b : Bool) : (State.writeLed b s).draws = s.draws := rfl
@[simp] theorem writeLed_log (b : Bool) : (State.writeLed b s).log = (.ledSet b :: s.log) := rfl

@[simp] theorem writeGuard_cfg (b : Bool) : (State.writeGuard b s).cfg = s.cfg := rfl
@[simp] theorem writeGuard_phase (b : Bool) : (State.writeGuard b s).phase = s.phase := rfl
@[simp] theorem writeGuard_cf (b : Bool) : (State.writeGuard b s).cf = s.cf := rfl
@[simp] theorem writeGuard_bi (b : Bool) : (State.writeGuard b s).bi = s.bi := rfl
@[simp] theorem writeGuard_blk (b : Bool) : (State.writeGuard b s).blk = s.blk := rfl
@[simp] theorem writeGuard_cnt (b : Bool) : (State.writeGuard b s).cnt = s.cnt := rfl
@[simp] theorem writeGuard_rem (b : Bool) : (State.writeGuard b s).rem = s.rem := rfl
@[simp] theorem writeGuard_led (b : Bool) : (State.writeGuard b s).led = s.led := rfl
@[simp] theorem writeGuard_guard (b : Bool) : (State.writeGuard b s).guard = b := rfl
@[simp] theorem writeGuard_dsReady (b : Bool) : (State.writeGuard b s).dsReady = s.dsReady := rfl
@[simp] theorem writeGuard_dsCapacity (b : Bool) : (State.writeGuard b s).dsCapacity = s.dsCapacity := rfl
@[simp] theorem writeGuard_buf (b : Bool) : (State.writeGuard b s).buf = s.buf := rfl
@[simp] theorem writeGuard_dOut (b : Bool) : (State.writeGuard b s).dOut = s.dOut := rfl
@[simp] theorem writeGuard_drqOut (b : Bool) : (State.writeGuard b s).drqOut = s.drqOut := rfl
@[simp] theorem writeGuard_irqOut (b : Bool) : (State.writeGuard b s).irqOut = s.irqOut := rfl
@[simp] theorem writeGuard_statusDone (b : Bool) : (State.writeGuard b s).statusDone = s.statusDone := rfl
@[simp] theorem writeGuard_pins (b : Bool) : (State.writeGuard b s).pins = s.pins := rfl
@[simp] theorem writeGuard_env (b : Bool) : (State.writeGuard b s).env = s.env := rfl
@[simp] theorem writeGuard_replies (b : Bool) : (State.writeGuard b s).replies = s.replies := rfl
@[simp] theorem writeGuard_draws (b : Bool) : (State.writeGuard b s).draws = s.draws := rfl
@[simp] theorem writeGuard_log (b : Bool) : (State.writeGuard b s).log = (.guardSet b :: s.log) := rfl

@[simp] theorem writeStatusDone_cfg (b : Bool) : (State.writeStatusDone b s).cfg = s.cfg := rfl
@[simp] theorem writeStatusDone_phase (b : Bool) : (State.writeStatusDone b s).phase = s.phase := rfl
@[simp] theorem writeStatusDone_cf (b : Bool) : (State.writeStatusDone b s).cf = s.cf := rfl
@[simp] theorem writeStatusDone_bi (b : Bool) : (State.writeStatusDone b s).bi = s.bi := rfl
@[simp] theorem writeStatusDone_blk (b : Bool) : (State.writeStatusDone b s).blk = s.blk := rfl
@[simp] theorem writeStatusDone_cnt (b : Bool) : (State.writeStatusDone b s).cnt = s.cnt := rfl
@[simp] theorem writeStatusDone_rem (b : Bool) : (State.writeStatusDone b s).rem = s.rem := rfl
@[simp] theorem writeStatusDone_led (b : Bool) : (State.writeStatusDone b s).led = s.led := rfl
@[simp] theorem writeStatusDone_guard (b : Bool) : (State.writeStatusDone b s).guard = s.guard := rfl
@[simp] theorem writeStatusDone_dsReady (b : Bool) : (State.writeStatusDone b s).dsReady = s.dsReady := rfl
@[simp] theorem writeStatusDone_dsCapacity (b : Bool) : (State.writeStatusDone b s).dsCapacity = s.dsCapacity := rfl
@[simp] theorem writeStatusDone_buf (b : Bool) : (State.writeStatusDone b s).buf = s.buf := rfl
@[simp] theorem writeStatusDone_dOut (b : Bool) : (State.writeStatusDone b s).dOut = s.dOut := rfl
@[simp] theorem writeStatusDone_drqOut (b : Bool) : (State.writeStatusDone b s).drqOut = s.drqOut := rfl
@[simp] theorem writeStatusDone_irqOut (b : Bool) : (State.writeStatusDone b s).irqOut = s.irqOut := rfl
@[simp] theorem writeStatusDone_statusDone (b : Bool) : (State.writeStatusDone b s).statusDone = b := rfl
@[simp] theorem writeStatusDone_pins (b : Bool) : (State.writeStatusDone b s).pins = s.pins := rfl
@[simp] theorem writeStatusDone_env (b : Bool) : (State.writeStatusDone b s).env = s.env := rfl
@[simp] theorem writeStatusDone_replies (b : Bool) : (State.writeStatusDone b s).replies = s.replies := rfl
@[simp] theorem writeStatusDone_draws (b : Bool) : (State.writeStatusDone b s).draws = s.draws := rfl
@[simp] theorem writeStatusDone_log (b : Bool) : (State.writeStatusDone b s).log = s.log := rfl

@[simp] theorem writeReady_cfg (b : Bool) : (State.writeReady b s).cfg = s.cfg := rfl
@[simp] theorem writeReady_phase (b : Bool) : (State.writeReady b s).phase = s.phase := rfl
@[simp] theorem writeReady_cf (b : Bool) : (State.writeReady b s).cf = s.cf := rfl
@[simp] theorem writeReady_bi (b : Bool) : (State.writeReady b s).bi = s.bi := rfl
@[simp] theorem writeReady_blk (b : Bool) : (State.writeReady b s).blk = s.blk := rfl
@[simp] theorem writeReady_cnt (b : Bool) : (State.writeReady b s).cnt = s.cnt := rfl
@[simp] theorem writeReady_rem (b : Bool) : (State.writeReady b s).rem = s.rem := rfl
@[simp] theorem writeReady_led (b : Bool) : (State.writeReady b s).led = s.led := rfl
@[simp] theorem writeReady_guard (b : Bool) : (State.writeReady b s).guard = s.guard := rfl
@[simp] theorem writeReady_dsReady (b : Bool) : (State.writeReady b s).dsReady = b := rfl
@[simp] theorem writeReady_dsCapacity (b : Bool) : (State.writeReady b s).dsCapacity = s.dsCapacity := rfl
@[simp] theorem writeReady_buf (b : Bool) : (State.writeReady b s).buf = s.buf := rfl
@[simp] theorem writeReady_dOut (b : Bool) : (State.writeReady b s).dOut = s.dOut := rfl
@[simp] theorem writeReady_drqOut (b : Bool) : (State.writeReady b s).drqOut = s.drqOut := rfl
@[simp] theorem writeReady_irqOut (b : Bool) : (State.writeReady b s).irqOut = s.irqOut := rfl
@[simp] theorem writeReady_statusDone (b : Bool) : (State.writeReady b s).statusDone = s.statusDone := rfl
@[simp] theorem writeReady_pins (b : Bool) : (State.writeReady b s).pins = s.pins := rfl
@[simp] theorem writeReady_env (b : Bool) : (State.writeReady b s).env = s.env := rfl
@[simp] theorem writeReady_replies (b : Bool) : (State.writeReady b s).replies = s.replies := rfl
@[simp] theorem writeReady_draws (b : Bool) : (State.writeReady b s).draws = s.draws := rfl
@[simp] theorem writeReady_log (b : Bool) : (State.writeReady b s).log = s.log := rfl

@[simp] theorem writeCapacity_cfg (n : Nat) : (writeCapacity n s).cfg = s.cfg := rfl
@[simp] theorem writeCapacity_phase (n : Nat) : (writeCapacity n s).phase = s.phase := rfl
@[simp] theorem writeCapacity_cf (n : Nat) : (writeCapacity n s).cf = s.cf := rfl
@[simp] theorem writeCapacity_bi (n : Nat) : (writeCapacity n s).bi = s.bi := rfl
@[simp] theorem writeCapacity_blk (n : Nat) : (writeCapacity n s).blk = s.blk := rfl
@[simp] theorem writeCapacity_cnt (n : Nat) : (writeCapacity n s).cnt = s.cnt := rfl
@[simp] theorem writeCapacity_rem (n : Nat) : (writeCapacity n s).rem = s.rem := rfl
@[simp] theorem writeCapacity_led (n : Nat) : (writeCapacity n s).led = s.led := rfl
@[simp] theorem writeCapacity_guard (n : Nat) : (writeCapacity n s).guard = s.guard := rfl
@[simp] theorem writeCapacity_dsReady (n : Nat) : (writeCapacity n s).dsReady = s.dsReady := rfl
@[simp] theorem writeCapacity_dsCapacity (n : Nat) : (writeCapacity n s).dsCapacity = (capacityOf n) := rfl
@[simp] theorem writeCapacity_buf (n : Nat) : (writeCapacity n s).buf = s.buf := rfl
@[simp] theorem writeCapacity_dOut (n : Nat) : (writeCapacity n s).dOut = s.dOut := rfl
@[simp] theorem writeCapacity_drqOut (n : Nat) : (writeCapacity n s).drqOut = s.drqOut := rfl
@[simp] theorem writeCapacity_irqOut (n : Nat) : (writeCapacity n s).irqOut = s.irqOut := rfl
@[simp] theorem writeCapacity_statusDone (n : Nat) : (writeCapacity n s).statusDone = s.statusDone := rfl
@[simp] theorem writeCapacity_pins (n : Nat) : (writeCapacity n s).pins = s.pins := rfl
@[simp] theorem writeCapacity_env (n : Nat) : (writeCapacity n s).env = s.env := rfl
@[simp] theorem writeCapacity_replies (n : Nat) : (writeCapacity n s).replies = s.replies := rfl
@[simp] theorem writeCapacity_draws (n : Nat) : (writeCapacity n s).draws = s.draws := rfl
@[simp] theorem writeCapacity_log (n : Nat) : (writeCapacity n s).log = s.log := rfl

@[simp] theorem writeRem_cfg (n : Nat) : (writeRem n s).cfg = s.cfg := rfl
@[simp] theorem writeRem_phase (n : Nat) : (writeRem n s).phase = s.phase := rfl
@[simp] theorem writeRem_cf (n : Nat) : (writeRem n s).cf = s.cf := rfl
@[simp] theorem writeRem_bi (n : Nat) : (writeRem n s).bi = s.bi := rfl
@[simp] theorem writeRem_blk (n : Nat) : (writeRem n s).blk = s.blk := rfl
@[simp] theorem writeRem_cnt (n : Nat) : (writeRem n s).cnt = s.cnt := rfl
@[simp] theorem writeRem_rem (n : Nat) : (writeRem n s).rem = n := rfl
@[simp] theorem writeRem_led (n : Nat) : (writeRem n s).led = s.led := rfl
@[simp] theorem writeRem_guard (n : Nat) : (writeRem n s).guard = s.guard := rfl
@[simp] theorem writeRem_dsReady (n : Nat) : (writeRem n s).dsReady = s.dsReady := rfl
@[simp] theorem writeRem_dsCapacity (n : Nat) : (writeRem n s).dsCapacity = s.dsCapacity := rfl
@[simp] theorem writeRem_buf (n : Nat) : (writeRem n s).buf = s.buf := rfl
@[simp] theorem writeRem_dOut (n : Nat) : (writeRem n s).dOut = s.dOut := rfl
@[simp] theorem writeRem_drqOut (n : Nat) : (writeRem n s).drqOut = s.drqOut := rfl
@[simp] theorem writeRem_irqOut (n : Nat) : (writeRem n s).irqOut = s.irqOut := rfl
@[simp] theorem writeRem_statusDone (n : Nat) : (writeRem n s).statusDone = s.statusDone := rfl
@[simp] theorem writeRem_pins (n : Nat) : (writeRem n s).pins = s.pins := rfl
@[simp] theorem writeRem_env (n : Nat) : (writeRem n s).env = s.env := rfl
@[simp] theorem writeRem_replies (n : Nat) : (writeRem n s).replies = s.replies := rfl
@[simp] theorem writeRem_draws (n : Nat) : (writeRem n s).draws = s.draws := rfl
@[simp] theorem writeRem_log (n : Nat) : (writeRem n s).log = s.log := rfl

@[simp] theorem writeBlk_cfg (b : Nat) : (writeBlk b s).cfg = s.cfg := rfl
@[simp] theorem writeBlk_phase (b : Nat) : (writeBlk b s).phase = s.phase := rfl
@[simp] theorem writeBlk_cf (b : Nat) : (writeBlk b s).cf = s.cf := rfl
@[simp] theorem writeBlk_bi (b : Nat) : (writeBlk b s).bi = s.bi := rfl
@[simp] theorem writeBlk_blk (b : Nat) : (writeBlk b s).blk = b := rfl
@[simp] theorem writeBlk_cnt (b : Nat) : (writeBlk b s).cnt = s.cnt := rfl
@[simp] theorem writeBlk_rem (b : Nat) : (writeBlk b s).rem = s.rem := rfl
@[simp] theorem writeBlk_led (b : Nat) : (writeBlk b s).led = s.led := rfl
@[simp] theorem writeBlk_guard (b : Nat) : (writeBlk b s).guard = s.guard := rfl
@[simp] theorem writeBlk_dsReady (b : Nat) : (writeBlk b s).dsReady = s.dsReady := rfl
@[simp] theorem writeBlk_dsCapacity (b : Nat) : (writeBlk b s).dsCapacity = s.dsCapacity := rfl
@[simp] theorem writeBlk_buf (b : Nat) : (writeBlk b s).buf = s.buf := rfl
@[simp] theorem writeBlk_dOut (b : Nat) : (writeBlk b s).dOut = s.dOut := rfl
@[simp] theorem writeBlk_drqOut (b : Nat) : (writeBlk b s).drqOut = s.drqOut := rfl
@[simp] theorem writeBlk_irqOut (b : Nat) : (writeBlk b s).irqOut = s.irqOut := rfl
@[simp] theorem writeBlk_statusDone (b : Nat) : (writeBlk b s).statusDone = s.statusDone := rfl
@[simp] theorem writeBlk_pins (b : Nat) : (writeBlk b s).pins = s.pins := rfl
@[simp] theorem writeBlk_env (b : Nat) : (writeBlk b s).env = s.env := rfl
@[simp] theorem writeBlk_replies (b : Nat) : (writeBlk b s).replies = s.replies := rfl
@[simp] theorem writeBlk_draws (b : Nat) : (writeBlk b s).draws = s.draws := rfl
@[simp] theorem writeBlk_log (b : Nat) : (writeBlk b s).log = s.log := rfl

@[simp] theorem writeCnt_cfg (n : Nat) : (writeCnt n s).cfg = s.cfg := rfl
@[simp] theorem writeCnt_phase (n : Nat) : (writeCnt n s).phase = s.phase := rfl
@[simp] theorem writeCnt_cf (n : Nat) : (writeCnt n s).cf = s.cf := rfl
@[simp] theorem writeCnt_bi (n : Nat) : (writeCnt n s).bi = s.bi := rfl
@[simp] theorem writeCnt_blk (n : Nat) : (writeCnt n s).blk = s.blk := rfl
@[simp] theorem writeCnt_cnt (n : Nat) : (writeCnt n s).cnt = (BitVec.ofNat 8 n) := rfl
@[simp] theorem writeCnt_rem (n : Nat) : (writeCnt n s).rem = s.rem := rfl
@[simp] theorem writeCnt_led (n : Nat) : (writeCnt n s).led = s.led := rfl
@[simp] theorem writeCnt_guard (n : Nat) : (writeCnt n s).guard = s.guard := rfl
@[simp] theorem writeCnt_dsReady (n : Nat) : (writeCnt n s).dsReady = s.dsReady := rfl
@[simp] theorem writeCnt_dsCapacity (n : Nat) : (writeCnt n s).dsCapacity = s.dsCapacity := rfl
@[simp] theorem writeCnt_buf (n : Nat) : (writeCnt n s).buf = s.buf := rfl
@[simp] theorem writeCnt_dOut (n : Nat) : (writeCnt n s).dOut = s.dOut := rfl
@[simp] theorem writeCnt_drqOut (n : Nat) : (writeCnt n s).drqOut = s.drqOut := rfl
@[simp] theorem writeCnt_irqOut (n : Nat) : (writeCnt n s).irqOut = s.irqOut := rfl
@[simp] theorem writeCnt_statusDone (n : Nat) : (writeCnt n s).statusDone = s.statusDone := rfl
@[simp] theorem writeCnt_pins (n : Nat) : (writeCnt n s).pins = s.pins := rfl
@[simp] theorem writeCnt_env (n : Nat) : (writeCnt n s).env = s.env := rfl
@[simp] theorem writeCnt_replies (n : Nat) : (writeCnt n s).replies = s.replies := rfl
@[simp] theorem writeCnt_draws (n : Nat) : (writeCnt n s).draws = s.draws := rfl
@[simp] theorem writeCnt_log (n : Nat) : (writeCnt n s).log = s.log := rfl

@[simp] theorem memWrite_cfg (l : List Byte) : (memWrite l s).cfg = s.cfg := rfl
@[simp] theorem memWrite_phase (l : List Byte) : (memWrite l s).phase = s.phase := rfl
@[simp] theorem memWrite_cf (l : List Byte) : (memWrite l s).cf = s.cf := rfl
@[simp] theorem memWrite_bi (l : List Byte) : (memWrite l s).bi = s.bi := rfl
@[simp] theorem memWrite_blk (l : List Byte) : (memWrite l s).blk = s.blk := rfl
@[simp] theorem memWrite_cnt (l : List Byte) : (memWrite l s).cnt = s.cnt := rfl
@[simp] theorem memWrite_rem (l : List Byte) : (memWrite l s).rem = s.rem := rfl
@[simp] theorem memWrite_led (l : List Byte) : (memWrite l s).led = s.led := rfl
@[simp] theorem memWrite_guard (l : List Byte) : (memWrite l s).guard = s.guard := rfl
@[simp] theorem memWrite_dsReady (l : List Byte) : (memWrite l s).dsReady = s.dsReady := rfl
@[simp] theorem memWrite_dsCapacity (l : List Byte) : (memWrite l s).dsCapacity = s.dsCapacity := rfl
@[simp] theorem memWrite_buf (l : List Byte) : (memWrite l s).buf = (Memory.writeBytes s.buf 0 l) := rfl
@[simp] theorem memWrite_dOut (l : List Byte) : (memWrite l s).dOut = s.dOut := rfl
@[simp] theorem memWrite_drqOut (l : List Byte) : (memWrite l s).drqOut = s.drqOut := rfl
@[simp] theorem memWrite_irqOut (l : List Byte) : (memWrite l s).irqOut = s.irqOut := rfl
@[simp] theorem memWrite_statusDone (l : List Byte) : (memWrite l s).statusDone = s.statusDone := rfl
@[simp] theorem memWrite_pins (l : List Byte) : (memWrite l s).pins = s.pins := rfl
@[simp] theorem memWrite_env (l : List Byte) : (memWrite l s).env = s.env := rfl
@[simp] theorem memWrite_replies (l : List Byte) : (memWrite l s).replies = s.replies := rfl
@[simp] theorem memWrite_draws (l : List Byte) : (memWrite l s).draws = s.draws := rfl
@[simp] theorem memWrite_log (l : List Byte) : (memWrite l s).log = s.log := rfl

@[simp] theorem storeByte_cfg (i : Nat) (v : Byte) : (storeByte i v s).cfg = s.cfg := rfl
@[simp] theorem storeByte_phase (i : Nat) (v : Byte) : (storeByte i v s).phase = s.phase := rfl
@[simp] theorem storeByte_cf (i : Nat) (v : Byte) : (storeByte i v s).cf = s.cf := rfl
@[simp] theorem storeByte_bi (i : Nat) (v : Byte) : (storeByte i v s).bi = s.bi := rfl
@[simp] theorem storeByte_blk (i : Nat) (v : Byte) : (storeByte i v s).blk = s.blk := rfl
@[simp] theorem storeByte_cnt (i : Nat) (v : Byte) : (storeByte i v s).cnt = s.cnt := rfl
@[simp] theorem storeByte_rem (i : Nat) (v : Byte) : (storeByte i v s).rem = s.rem := rfl
@[simp] theorem storeByte_led (i : Nat) (v : Byte) : (storeByte i v s).led = s.led := rfl
@[simp] theorem storeByte_guard (i : Nat) (v : Byte) : (storeByte i v s).guard = s.guard := rfl
@[simp] theorem storeByte_dsReady (i : Nat) (v : Byte) : (storeByte i v s).dsReady = s.dsReady := rfl
@[simp] theorem storeByte_dsCapacity (i : Nat) (v : Byte) : (storeByte i v s).dsCapacity = s.dsCapacity := rfl
@[simp] theorem storeByte_buf (i : Nat) (v : Byte) : (storeByte i v s).buf = (Memory.write s.buf i v) := rfl
@[simp] theorem storeByte_dOut (i : Nat) (v : Byte) : (storeByte i v s).dOut = s.dOut := rfl
@[simp] theorem storeByte_drqOut (i : Nat) (v : Byte) : (storeByte i v s).drqOut = s.drqOut := rfl
@[simp] theorem storeByte_irqOut (i : Nat) (v : Byte) : (storeByte i v s).irqOut = s.irqOut := rfl
@[simp] theorem storeByte_statusDone (i : Nat) (v : Byte) : (storeByte i v s).statusDone = s.statusDone := rfl
@[simp] theorem storeByte_pins (i : Nat) (v : Byte) : (storeByte i v s).pins = s.pins := rfl
@[simp] theorem storeByte_env (i : Nat) (v : Byte) : (storeByte i v s).env = s.env := rfl
@[simp] theorem storeByte_replies (i : Nat) (v : Byte) : (storeByte i v s).replies = s.replies := rfl
@[simp] theorem storeByte_draws (i : Nat) (v : Byte) : (storeByte i v s).draws = s.draws := rfl
@[simp] theorem storeByte_log (i : Nat) (v : Byte) : (storeByte i v s).log = s.log := rfl

@[simp] theorem releaseLines_cfg (l : LineSet) : (releaseLines l s).cfg = s.cfg := rfl
@[simp] theorem releaseLines_phase (l : LineSet) : (releaseLines l s).phase = s.phase := rfl
@[simp] theorem releaseLines_cf (l : LineSet) : (releaseLines l s).cf = s.cf := rfl
@[simp] theorem releaseLines_bi (l : LineSet) : (releaseLines l s).bi = s.bi := rfl
@[simp] theorem releaseLines_blk (l : LineSet) : (releaseLines l s).blk = s.blk := rfl
@[simp] theorem releaseLines_cnt (l : LineSet) : (releaseLines l s).cnt = s.cnt := rfl
@[simp] theorem releaseLines_rem (l : LineSet) : (releaseLines l s).rem = s.rem := rfl
@[simp] theorem releaseLines_led (l : LineSet) : (releaseLines l s).led = s.led := rfl
@[simp] theorem releaseLines_guard (l : LineSet) : (releaseLines l s).guard = s.guard := rfl
@[simp] theorem releaseLines_dsReady (l : LineSet) : (releaseLines l s).dsReady = s.dsReady := rfl
@[simp] theorem releaseLines_dsCapacity (l : LineSet) : (releaseLines l s).dsCapacity = s.dsCapacity := rfl
@[simp] theorem releaseLines_buf (l : LineSet) : (releaseLines l s).buf = s.buf := rfl
@[simp] theorem releaseLines_dOut (l : LineSet) : (releaseLines l s).dOut = (if l.d then .released else s.dOut) := rfl
@[simp] theorem releaseLines_drqOut (l : LineSet) : (releaseLines l s).drqOut = (if l.drq then .released else s.drqOut) := rfl
@[simp] theorem releaseLines_irqOut (l : LineSet) : (releaseLines l s).irqOut = (if l.irq then .released else s.irqOut) := rfl
@[simp] theorem releaseLines_statusDone (l : LineSet) : (releaseLines l s).statusDone = s.statusDone := rfl
@[simp] theorem releaseLines_pins (l : LineSet) : (releaseLines l s).pins = s.pins := rfl
@[simp] theorem releaseLines_env (l : LineSet) : (releaseLines l s).env = s.env := rfl
@[simp] theorem releaseLines_replies (l : LineSet) : (releaseLines l s).replies = s.replies := rfl
@[simp] theorem releaseLines_draws (l : LineSet) : (releaseLines l s).draws = s.draws := rfl
@[simp] theorem releaseLines_log (l : LineSet) : (releaseLines l s).log = (.released l :: s.log) := rfl

@[simp] theorem writePhase_cfg (p : Phase) : (writePhase p s).cfg = s.cfg := rfl
@[simp] theorem writePhase_phase (p : Phase) : (writePhase p s).phase = p := rfl
@[simp] theorem writePhase_cf (p : Phase) : (writePhase p s).cf = s.cf := rfl
@[simp] theorem writePhase_bi (p : Phase) : (writePhase p s).bi = s.bi := rfl
@[simp] theorem writePhase_blk (p : Phase) : (writePhase p s).blk = s.blk := rfl
@[simp] theorem writePhase_cnt (p : Phase) : (writePhase p s).cnt = s.cnt := rfl
@[simp] theorem writePhase_rem (p : Phase) : (writePhase p s).rem = s.rem := rfl
@[simp] theorem writePhase_led (p : Phase) : (writePhase p s).led = s.led := rfl
@[simp] theorem writePhase_guard (p : Phase) : (writePhase p s).guard = s.guard := rfl
@[simp] theorem writePhase_dsReady (p : Phase) : (writePhase p s).dsReady = s.dsReady := rfl
@[simp] theorem writePhase_dsCapacity (p : Phase) : (writePhase p s).dsCapacity = s.dsCapacity := rfl
@[simp] theorem writePhase_buf (p : Phase) : (writePhase p s).buf = s.buf := rfl
@[simp] theorem writePhase_dOut (p : Phase) : (writePhase p s).dOut = s.dOut := rfl
@[simp] theorem writePhase_drqOut (p : Phase) : (writePhase p s).drqOut = s.drqOut := rfl
@[simp] theorem writePhase_irqOut (p : Phase) : (writePhase p s).irqOut = s.irqOut := rfl
@[simp] theorem writePhase_statusDone (p : Phase) : (writePhase p s).statusDone = s.statusDone := rfl
@[simp] theorem writePhase_pins (p : Phase) : (writePhase p s).pins = s.pins := rfl
@[simp] theorem writePhase_env (p : Phase) : (writePhase p s).env = s.env := rfl
@[simp] theorem writePhase_replies (p : Phase) : (writePhase p s).replies = s.replies := rfl
@[simp] theorem writePhase_draws (p : Phase) : (writePhase p s).draws = s.draws := rfl
@[simp] theorem writePhase_log (p : Phase) : (writePhase p s).log = s.log := rfl

@[simp] theorem writeFrame_cfg (k : Fin 6) (v : Byte) : (writeFrame k v s).cfg = s.cfg := rfl
@[simp] theorem writeFrame_phase (k : Fin 6) (v : Byte) : (writeFrame k v s).phase = s.phase := rfl
@[simp] theorem writeFrame_cf (k : Fin 6) (v : Byte) : (writeFrame k v s).cf = (s.cf.set k v) := rfl
@[simp] theorem writeFrame_bi (k : Fin 6) (v : Byte) : (writeFrame k v s).bi = s.bi := rfl
@[simp] theorem writeFrame_blk (k : Fin 6) (v : Byte) : (writeFrame k v s).blk = s.blk := rfl
@[simp] theorem writeFrame_cnt (k : Fin 6) (v : Byte) : (writeFrame k v s).cnt = s.cnt := rfl
@[simp] theorem writeFrame_rem (k : Fin 6) (v : Byte) : (writeFrame k v s).rem = s.rem := rfl
@[simp] theorem writeFrame_led (k : Fin 6) (v : Byte) : (writeFrame k v s).led = s.led := rfl
@[simp] theorem writeFrame_guard (k : Fin 6) (v : Byte) : (writeFrame k v s).guard = s.guard := rfl
@[simp] theorem writeFrame_dsReady (k : Fin 6) (v : Byte) : (writeFrame k v s).dsReady = s.dsReady := rfl
@[simp] theorem writeFrame_dsCapacity (k : Fin 6) (v : Byte) : (writeFrame k v s).dsCapacity = s.dsCapacity := rfl
@[simp] theorem writeFrame_buf (k : Fin 6) (v : Byte) : (writeFrame k v s).buf = s.buf := rfl
@[simp] theorem writeFrame_dOut (k : Fin 6) (v : Byte) : (writeFrame k v s).dOut = s.dOut := rfl
@[simp] theorem writeFrame_drqOut (k : Fin 6) (v : Byte) : (writeFrame k v s).drqOut = s.drqOut := rfl
@[simp] theorem writeFrame_irqOut (k : Fin 6) (v : Byte) : (writeFrame k v s).irqOut = s.irqOut := rfl
@[simp] theorem writeFrame_statusDone (k : Fin 6) (v : Byte) : (writeFrame k v s).statusDone = s.statusDone := rfl
@[simp] theorem writeFrame_pins (k : Fin 6) (v : Byte) : (writeFrame k v s).pins = s.pins := rfl
@[simp] theorem writeFrame_env (k : Fin 6) (v : Byte) : (writeFrame k v s).env = s.env := rfl
@[simp] theorem writeFrame_replies (k : Fin 6) (v : Byte) : (writeFrame k v s).replies = s.replies := rfl
@[simp] theorem writeFrame_draws (k : Fin 6) (v : Byte) : (writeFrame k v s).draws = s.draws := rfl
@[simp] theorem writeFrame_log (k : Fin 6) (v : Byte) : (writeFrame k v s).log = s.log := rfl

@[simp] theorem writeBi_cfg (k : Fin 6) : (writeBi k s).cfg = s.cfg := rfl
@[simp] theorem writeBi_phase (k : Fin 6) : (writeBi k s).phase = s.phase := rfl
@[simp] theorem writeBi_cf (k : Fin 6) : (writeBi k s).cf = s.cf := rfl
@[simp] theorem writeBi_bi (k : Fin 6) : (writeBi k s).bi = k := rfl
@[simp] theorem writeBi_blk (k : Fin 6) : (writeBi k s).blk = s.blk := rfl
@[simp] theorem writeBi_cnt (k : Fin 6) : (writeBi k s).cnt = s.cnt := rfl
@[simp] theorem writeBi_rem (k : Fin 6) : (writeBi k s).rem = s.rem := rfl
@[simp] theorem writeBi_led (k : Fin 6) : (writeBi k s).led = s.led := rfl
@[simp] theorem writeBi_guard (k : Fin 6) : (writeBi k s).guard = s.guard := rfl
@[simp] theorem writeBi_dsReady (k : Fin 6) : (writeBi k s).dsReady = s.dsReady := rfl
@[simp] theorem writeBi_dsCapacity (k : Fin 6) : (writeBi k s).dsCapacity = s.dsCapacity := rfl
@[simp] theorem writeBi_buf (k : Fin 6) : (writeBi k s).buf = s.buf := rfl
@[simp] theorem writeBi_dOut (k : Fin 6) : (writeBi k s).dOut = s.dOut := rfl
@[simp] theorem writeBi_drqOut (k : Fin 6) : (writeBi k s).drqOut = s.drqOut := rfl
@[simp] theorem writeBi_irqOut (k : Fin 6) : (writeBi k s).irqOut = s.irqOut := rfl
@[simp] theorem writeBi_statusDone (k : Fin 6) : (writeBi k s).statusDone = s.statusDone := rfl
@[simp] theorem writeBi_pins (k : Fin 6) : (writeBi k s).pins = s.pins := rfl
@[simp] theorem writeBi_env (k : Fin 6) : (writeBi k s).env = s.env := rfl
@[simp] theorem writeBi_replies (k : Fin 6) : (writeBi k s).replies = s.replies := rfl
@[simp] theorem writeBi_draws (k : Fin 6) : (writeBi k s).draws = s.draws := rfl
@[simp] theorem writeBi_log (k : Fin 6) : (writeBi k s).log = s.log := rfl

@[simp] theorem drqHigh_cfg : (drqHigh s).cfg = s.cfg := rfl
@[simp] theorem drqHigh_phase : (drqHigh s).phase = s.phase := rfl
@[simp] theorem drqHigh_cf : (drqHigh s).cf = s.cf := rfl
@[simp] theorem drqHigh_bi : (drqHigh s).bi = s.bi := rfl
@[simp] theorem drqHigh_blk : (drqHigh s).blk = s.blk := rfl
@[simp] theorem drqHigh_cnt : (drqHigh s).cnt = s.cnt := rfl
@[simp] theorem drqHigh_rem : (drqHigh s).rem = s.rem := rfl
@[simp] theorem drqHigh_led : (drqHigh s).led = s.led := rfl
@[simp] theorem drqHigh_guard : (drqHigh s).guard = s.guard := rfl
@[simp] theorem drqHigh_dsReady : (drqHigh s).dsReady = s.dsReady := rfl
@[simp] theorem drqHigh_dsCapacity : (drqHigh s).dsCapacity = s.dsCapacity := rfl
@[simp] theorem drqHigh_buf : (drqHigh s).buf = s.buf := rfl
@[simp] theorem drqHigh_dOut : (drqHigh s).dOut = s.dOut := rfl
@[simp] theorem drqHigh_drqOut : (drqHigh s).drqOut = .released := rfl
@[simp] theorem drqHigh_irqOut : (drqHigh s).irqOut = s.irqOut := rfl
@[simp] theorem drqHigh_statusDone : (drqHigh s).statusDone = s.statusDone := rfl
@[simp] theorem drqHigh_pins : (drqHigh s).pins = s.pins := rfl
@[simp] theorem drqHigh_env : (drqHigh s).env = s.env := rfl
@[simp] theorem drqHigh_replies : (drqHigh s).replies = s.replies := rfl
@[simp] theorem drqHigh_draws : (drqHigh s).draws = s.draws := rfl
@[simp] theorem drqHigh_log : (drqHigh s).log = s.log := rfl

@[simp] theorem drqLow_cfg : (drqLow s).cfg = s.cfg := rfl
@[simp] theorem drqLow_phase : (drqLow s).phase = s.phase := rfl
@[simp] theorem drqLow_cf : (drqLow s).cf = s.cf := rfl
@[simp] theorem drqLow_bi : (drqLow s).bi = s.bi := rfl
@[simp] theorem drqLow_blk : (drqLow s).blk = s.blk := rfl
@[simp] theorem drqLow_cnt : (drqLow s).cnt = s.cnt := rfl
@[simp] theorem drqLow_rem : (drqLow s).rem = s.rem := rfl
@[simp] theorem drqLow_led : (drqLow s).led = s.led := rfl
@[simp] theorem drqLow_guard : (drqLow s).guard = s.guard := rfl
@[simp] theorem drqLow_dsReady : (drqLow s).dsReady = s.dsReady := rfl
@[simp] theorem drqLow_dsCapacity : (drqLow s).dsCapacity = s.dsCapacity := rfl
@[simp] theorem drqLow_buf : (drqLow s).buf = s.buf := rfl
@[simp] theorem drqLow_dOut : (drqLow s).dOut = s.dOut := rfl
@[simp] theorem drqLow_drqOut : (drqLow s).drqOut = .low := rfl
@[simp] theorem drqLow_irqOut : (drqLow s).irqOut = s.irqOut := rfl
@[simp] theorem drqLow_statusDone : (drqLow s).statusDone = s.statusDone := rfl
@[simp] theorem drqLow_pins : (drqLow s).pins = s.pins := rfl
@[simp] theorem drqLow_env : (drqLow s).env = s.env := rfl
@[simp] theorem drqLow_replies : (drqLow s).replies = s.replies := rfl
@[simp] theorem drqLow_draws : (drqLow s).draws = s.draws := rfl
@[simp] theorem drqLow_log : (drqLow s).log = s.log := rfl

@[simp] theorem engine_cfg : (s.engine).cfg = s.cfg := rfl
@[simp] theorem engine_phase : (s.engine).phase = s.phase := rfl
@[simp] theorem engine_cf : (s.engine).cf = s.cf := rfl
@[simp] theorem engine_bi : (s.engine).bi = s.bi := rfl
@[simp] theorem engine_blk : (s.engine).blk = s.blk := rfl
@[simp] theorem engine_cnt : (s.engine).cnt = s.cnt := rfl
@[simp] theorem engine_rem : (s.engine).rem = s.rem := rfl
@[simp] theorem engine_led : (s.engine).led = s.led := rfl
@[simp] theorem engine_guard : (s.engine).guard = s.guard := rfl
@[simp] theorem engine_dsReady : (s.engine).dsReady = s.dsReady := rfl
@[simp] theorem engine_dsCapacity : (s.engine).dsCapacity = s.dsCapacity := rfl
@[simp] theorem engine_buf : (s.engine).buf = s.buf := rfl
@[simp] theorem engine_dOut : (s.engine).dOut = s.dOut := rfl
@[simp] theorem engine_drqOut : (s.engine).drqOut = s.drqOut := rfl
@[simp] theorem engine_irqOut : (s.engine).irqOut = s.irqOut := rfl
@[simp] theorem engine_statusDone : (s.engine).statusDone = s.statusDone := rfl
@[simp] theorem engine_pins : (s.engine).pins = Pins.quiet := rfl
@[simp] theorem engine_env : (s.engine).env = [] := rfl
@[simp] theorem engine_replies : (s.engine).replies = s.replies := rfl
@[simp] theorem engine_draws : (s.engine).draws = s.draws := rfl
@[simp] theorem engine_log : (s.engine).log = s.log := rfl

@[simp] theorem after_cfg (tr : List Event) : (State.after tr s).cfg = s.cfg := rfl
@[simp] theorem after_phase (tr : List Event) : (State.after tr s).phase = s.phase := rfl
@[simp] theorem after_cf (tr : List Event) : (State.after tr s).cf = s.cf := rfl
@[simp] theorem after_bi (tr : List Event) : (State.after tr s).bi = s.bi := rfl
@[simp] theorem after_blk (tr : List Event) : (State.after tr s).blk = s.blk := rfl
@[simp] theorem after_cnt (tr : List Event) : (State.after tr s).cnt = s.cnt := rfl
@[simp] theorem after_rem (tr : List Event) : (State.after tr s).rem = s.rem := rfl
@[simp] theorem after_led (tr : List Event) : (State.after tr s).led = s.led := rfl
@[simp] theorem after_guard (tr : List Event) : (State.after tr s).guard = s.guard := rfl
@[simp] theorem after_dsReady (tr : List Event) : (State.after tr s).dsReady = s.dsReady := rfl
@[simp] theorem after_dsCapacity (tr : List Event) : (State.after tr s).dsCapacity = s.dsCapacity := rfl
@[simp] theorem after_buf (tr : List Event) : (State.after tr s).buf = s.buf := rfl
@[simp] theorem after_dOut (tr : List Event) : (State.after tr s).dOut = s.dOut := rfl
@[simp] theorem after_drqOut (tr : List Event) : (State.after tr s).drqOut = s.drqOut := rfl
@[simp] theorem after_irqOut (tr : List Event) : (State.after tr s).irqOut = s.irqOut := rfl
@[simp] theorem after_statusDone (tr : List Event) : (State.after tr s).statusDone = s.statusDone := rfl
@[simp] theorem after_pins (tr : List Event) : (State.after tr s).pins = s.pins := rfl
@[simp] theorem after_env (tr : List Event) : (State.after tr s).env = s.env := rfl
@[simp] theorem after_replies (tr : List Event) : (State.after tr s).replies = s.replies := rfl
@[simp] theorem after_draws (tr : List Event) : (State.after tr s).draws = s.draws := rfl
@[simp] theorem after_log (tr : List Event) : (State.after tr s).log = (tr.reverse ++ s.log) := rfl

@[simp] theorem popReply_cfg : (popReply s).cfg = s.cfg := rfl
@[simp] theorem popReply_phase : (popReply s).phase = s.phase := rfl
@[simp] theorem popReply_cf : (popReply s).cf = s.cf := rfl
@[simp] theorem popReply_bi : (popReply s).bi = s.bi := rfl
@[simp] theorem popReply_blk : (popReply s).blk = s.blk := rfl
@[simp] theorem popReply_cnt : (popReply s).cnt = s.cnt := rfl
@[simp] theorem popReply_rem : (popReply s).rem = s.rem := rfl
@[simp] theorem popReply_led : (popReply s).led = s.led := rfl
@[simp] theorem popReply_guard : (popReply s).guard = s.guard := rfl
@[simp] theorem popReply_dsReady : (popReply s).dsReady = s.dsReady := rfl
@[simp] theorem popReply_dsCapacity : (popReply s).dsCapacity = s.dsCapacity := rfl
@[simp] theorem popReply_buf : (popReply s).buf = s.buf := rfl
@[simp] theorem popReply_dOut : (popReply s).dOut = s.dOut := rfl
@[simp] theorem popReply_drqOut : (popReply s).drqOut = s.drqOut := rfl
@[simp] theorem popReply_irqOut : (popReply s).irqOut = s.irqOut := rfl
@[simp] theorem popReply_statusDone : (popReply s).statusDone = s.statusDone := rfl
@[simp] theorem popReply_pins : (popReply s).pins = s.pins := rfl
@[simp] theorem popReply_env : (popReply s).env = s.env := rfl
@[simp] theorem popReply_replies : (popReply s).replies = s.replies.tail := rfl
@[simp] theorem popReply_draws : (popReply s).draws = if s.replies.isEmpty then s.draws + 1 else s.draws := rfl
@[simp] theorem popReply_log : (popReply s).log = s.log := rfl

@[simp] theorem initAnswered_cfg : (initAnswered s).cfg = s.cfg := rfl
@[simp] theorem initAnswered_phase : (initAnswered s).phase = s.phase := rfl
@[simp] theorem initAnswered_cf : (initAnswered s).cf = s.cf := rfl
@[simp] theorem initAnswered_bi : (initAnswered s).bi = s.bi := rfl
@[simp] theorem initAnswered_blk : (initAnswered s).blk = s.blk := rfl
@[simp] theorem initAnswered_cnt : (initAnswered s).cnt = s.cnt := rfl
@[simp] theorem initAnswered_rem : (initAnswered s).rem = s.rem := rfl
@[simp] theorem initAnswered_led : (initAnswered s).led = s.led := rfl
@[simp] theorem initAnswered_guard : (initAnswered s).guard = s.guard := rfl
@[simp] theorem initAnswered_dsReady : (initAnswered s).dsReady = s.dsReady := rfl
@[simp] theorem initAnswered_dsCapacity : (initAnswered s).dsCapacity = s.dsCapacity := rfl
@[simp] theorem initAnswered_buf : (initAnswered s).buf = s.buf := rfl
@[simp] theorem initAnswered_dOut : (initAnswered s).dOut = s.dOut := rfl
@[simp] theorem initAnswered_drqOut : (initAnswered s).drqOut = s.drqOut := rfl
@[simp] theorem initAnswered_irqOut : (initAnswered s).irqOut = s.irqOut := rfl
@[simp] theorem initAnswered_statusDone : (initAnswered s).statusDone = s.statusDone := rfl
@[simp] theorem initAnswered_pins : (initAnswered s).pins = s.pins := rfl
@[simp] theorem initAnswered_env : (initAnswered s).env = s.env := rfl
@[simp] theorem initAnswered_replies : (initAnswered s).replies = s.replies.tail := rfl
@[simp] theorem initAnswered_draws :
    (initAnswered s).draws = if s.replies.isEmpty then s.draws + 1 else s.draws := rfl
@[simp] theorem initAnswered_log : (initAnswered s).log = .collInit (nextReply s).ok :: s.log := rfl

@[simp] theorem capacityAnswered_cfg : (capacityAnswered s).cfg = s.cfg := rfl
@[simp] theorem capacityAnswered_phase : (capacityAnswered s).phase = s.phase := rfl
@[simp] theorem capacityAnswered_cf : (capacityAnswered s).cf = s.cf := rfl
@[simp] theorem capacityAnswered_bi : (capacityAnswered s).bi = s.bi := rfl
@[simp] theorem capacityAnswered_blk : (capacityAnswered s).blk = s.blk := rfl
@[simp] theorem capacityAnswered_cnt : (capacityAnswered s).cnt = s.cnt := rfl
@[simp] theorem capacityAnswered_rem : (capacityAnswered s).rem = s.rem := rfl
@[simp] theorem capacityAnswered_led : (capacityAnswered s).led = s.led := rfl
@[simp] theorem capacityAnswered_guard : (capacityAnswered s).guard = s.guard := rfl
@[simp] theorem capacityAnswered_dsReady : (capacityAnswered s).dsReady = true := rfl
@[simp] theorem capacityAnswered_dsCapacity :
    (capacityAnswered s).dsCapacity = capacityOf (nextReply s).capacity := rfl
@[simp] theorem capacityAnswered_buf : (capacityAnswered s).buf = s.buf := rfl
@[simp] theorem capacityAnswered_dOut : (capacityAnswered s).dOut = s.dOut := rfl
@[simp] theorem capacityAnswered_drqOut : (capacityAnswered s).drqOut = s.drqOut := rfl
@[simp] theorem capacityAnswered_irqOut : (capacityAnswered s).irqOut = s.irqOut := rfl
@[simp] theorem capacityAnswered_statusDone : (capacityAnswered s).statusDone = s.statusDone := rfl
@[simp] theorem capacityAnswered_pins : (capacityAnswered s).pins = s.pins := rfl
@[simp] theorem capacityAnswered_env : (capacityAnswered s).env = s.env := rfl
@[simp] theorem capacityAnswered_replies : (capacityAnswered s).replies = s.replies.tail := rfl
@[simp] theorem capacityAnswered_draws :
    (capacityAnswered s).draws = if s.replies.isEmpty then s.draws + 1 else s.draws := rfl
@[simp] theorem capacityAnswered_log : (capacityAnswered s).log = .collCapacity (nextReply s).capacity :: s.log := rfl

@[simp] theorem sent_cfg (l : List Byte) : (sent l s).cfg = s.cfg := rfl
@[simp] theorem sent_phase (l : List Byte) : (sent l s).phase = s.phase := rfl
@[simp] theorem sent_cf (l : List Byte) : (sent l s).cf = s.cf := rfl
@[simp] theorem sent_bi (l : List Byte) : (sent l s).bi = s.bi := rfl
@[simp] theorem sent_blk (l : List Byte) : (sent l s).blk = s.blk := rfl
@[simp] theorem sent_cnt (l : List Byte) : (sent l s).cnt = s.cnt := rfl
@[simp] theorem sent_rem (l : List Byte) : (sent l s).rem = s.rem := rfl
@[simp] theorem sent_led (l : List Byte) : (sent l s).led = s.led := rfl
@[simp] theorem sent_guard (l : List Byte) : (sent l s).guard = false := rfl
@[simp] theorem sent_dsReady (l : List Byte) : (sent l s).dsReady = s.dsReady := rfl
@[simp] theorem sent_dsCapacity (l : List Byte) : (sent l s).dsCapacity = s.dsCapacity := rfl
@[simp] theorem sent_buf (l : List Byte) : (sent l s).buf = s.buf := rfl
@[simp] theorem sent_dOut (l : List Byte) : (sent l s).dOut = .released := rfl
@[simp] theorem sent_drqOut (l : List Byte) : (sent l s).drqOut = .released := rfl
@[simp] theorem sent_irqOut (l : List Byte) : (sent l s).irqOut = s.irqOut := rfl
@[simp] theorem sent_statusDone (l : List Byte) : (sent l s).statusDone = s.statusDone := rfl
@[simp] theorem sent_pins (l : List Byte) : (sent l s).pins = s.pins := rfl
@[simp] theorem sent_env (l : List Byte) : (sent l s).env = s.env := rfl
@[simp] theorem sent_replies (l : List Byte) : (sent l s).replies = s.replies := rfl
@[simp] theorem sent_draws (l : List Byte) : (sent l s).draws = s.draws := rfl
@[simp] theorem sent_log (l : List Byte) : (sent l s).log = (sendTrace s.cfg l).reverse ++ s.log := rfl

@[simp] theorem finished_cfg (code : Byte) : (finished code s).cfg = s.cfg := rfl
@[simp] theorem finished_phase (code : Byte) : (finished code s).phase = .idle := rfl
@[simp] theorem finished_cf (code : Byte) : (finished code s).cf = s.cf := rfl
@[simp] theorem finished_bi (code : Byte) : (finished code s).bi = s.bi := rfl
@[simp] theorem finished_blk (code : Byte) : (finished code s).blk = s.blk := rfl
@[simp] theorem finished_cnt (code : Byte) : (finished code s).cnt = s.cnt := rfl
@[simp] theorem finished_rem (code : Byte) : (finished code s).rem = s.rem := rfl
@[simp] theorem finished_led (code : Byte) : (finished code s).led = false := rfl
@[simp] theorem finished_guard (code : Byte) : (finished code s).guard = false := rfl
@[simp] theorem finished_dsReady (code : Byte) : (finished code s).dsReady = s.dsReady := rfl
@[simp] theorem finished_dsCapacity (code : Byte) : (finished code s).dsCapacity = s.dsCapacity := rfl
@[simp] theorem finished_buf (code : Byte) : (finished code s).buf = s.buf := rfl
@[simp] theorem finished_dOut (code : Byte) : (finished code s).dOut = .released := rfl
@[simp] theorem finished_drqOut (code : Byte) : (finished code s).drqOut = .released := rfl
@[simp] theorem finished_irqOut (code : Byte) : (finished code s).irqOut = .released := rfl
@[simp] theorem finished_statusDone (code : Byte) : (finished code s).statusDone = true := rfl
@[simp] theorem finished_pins (code : Byte) : (finished code s).pins = s.pins := rfl
@[simp] theorem finished_env (code : Byte) : (finished code s).env = s.env := rfl
@[simp] theorem finished_replies (code : Byte) : (finished code s).replies = s.replies := rfl
@[simp] theorem finished_draws (code : Byte) : (finished code s).draws = s.draws := rfl
@[simp] theorem finished_log (code : Byte) : (finished code s).log = (statusTrace code).reverse ++ s.log := rfl

@[simp] theorem stored_cfg (l : List Byte) : (stored l s).cfg = s.cfg := rfl
@[simp] theorem stored_phase (l : List Byte) : (stored l s).phase = s.phase := rfl
@[simp] theorem stored_cf (l : List Byte) : (stored l s).cf = s.cf := rfl
@[simp] theorem stored_bi (l : List Byte) : (stored l s).bi = s.bi := rfl
@[simp] theorem stored_blk (l : List Byte) : (stored l s).blk = s.blk := rfl
@[simp] theorem stored_cnt (l : List Byte) : (stored l s).cnt = s.cnt := rfl
@[simp] theorem stored_rem (l : List Byte) : (stored l s).rem = s.rem := rfl
@[simp] theorem stored_led (l : List Byte) : (stored l s).led = s.led := rfl
@[simp] theorem stored_guard (l : List Byte) : (stored l s).guard = false := rfl
@[simp] theorem stored_dsReady (l : List Byte) : (stored l s).dsReady = s.dsReady := rfl
@[simp] theorem stored_dsCapacity (l : List Byte) : (stored l s).dsCapacity = s.dsCapacity := rfl
@[simp] theorem stored_buf (l : List Byte) : (stored l s).buf = Memory.writeBytes s.buf 0 l := rfl
@[simp] theorem stored_dOut (l : List Byte) : (stored l s).dOut = .released := rfl
@[simp] theorem stored_drqOut (l : List Byte) : (stored l s).drqOut = .released := rfl
@[simp] theorem stored_irqOut (l : List Byte) : (stored l s).irqOut = s.irqOut := rfl
@[simp] theorem stored_statusDone (l : List Byte) : (stored l s).statusDone = s.statusDone := rfl
@[simp] theorem stored_pins (l : List Byte) : (stored l s).pins = s.pins := rfl
@[simp] theorem stored_env (l : List Byte) : (stored l s).env = s.env := rfl
@[simp] theorem stored_replies (l : List Byte) : (stored l s).replies = s.replies := rfl
@[simp] theorem stored_draws (l : List Byte) : (stored l s).draws = s.draws := rfl
@[simp] theorem stored_log (l : List Byte) : (stored l s).log = (recvTrace s.cfg l).reverse ++ s.log := rfl

end Sys2Proof.Machine
end

