-- ==== Sys2Proof/Laws/Flow.lean ====
section
/-! SUPPORT. How sequences of atomic steps are reasoned about. `Flow.Sat` says what holds however a sequence ends (for
invariants and frames); `Yields` says that a sequence comes to its end, with which change of the engine, whatever the
peer's lines do meanwhile (for results). -/

namespace Sys2Proof.Machine

variable {α β : Type}

/-! ## However a sequence ends -/

/-- The result of a sequence meets `P`, and a state it is cut short in meets `H`. -/
def Flow.Sat (f : Flow α) (P : α → Prop) (H : State → Prop) : Prop :=
  match f with
  | .done a => P a
  | .halt s => H s

@[simp] theorem sat_done (a : α) (P : α → Prop) (H : State → Prop) : (Flow.done a).Sat P H ↔ P a := Iff.rfl

@[simp] theorem sat_halt (s : State) (P : α → Prop) (H : State → Prop) : (Flow.halt s).Sat P H ↔ H s := Iff.rfl

@[simp] theorem bind_done (a : α) (g : α → Flow β) : (Flow.done a).bind g = g a := rfl

@[simp] theorem bind_halt (s : State) (g : α → Flow β) : (Flow.halt s).bind g = .halt s := rfl

theorem bind_assoc {γ : Type} (f : Flow α) (g : α → Flow β) (h : β → Flow γ) :
    (f.bind g).bind h = f.bind fun a => (g a).bind h := by
  cases f <;> rfl

theorem sat_bind {f : Flow α} {g : α → Flow β} {P : α → Prop} {Q : β → Prop} {H : State → Prop}
    (hf : f.Sat P H) (hg : ∀ a, P a → (g a).Sat Q H) : (f.bind g).Sat Q H := by
  cases f with
  | done a => exact hg a hf
  | halt s => exact hf

theorem sat_mono {f : Flow α} {P Q : α → Prop} {H K : State → Prop} (hf : f.Sat P H)
    (hP : ∀ a, P a → Q a) (hH : ∀ s, H s → K s) : f.Sat Q K := by
  cases f with
  | done a => exact hP a hf
  | halt s => exact hH s hf

/-- What holds of a sequence's state when it holds however the sequence ends. -/
theorem sat_state {f : Flow State} {P : State → Prop} (hf : f.Sat P P) : P f.state := by
  cases f <;> exact hf

/-- A wait goes past every sample at the other level and ends at the first one at its own. -/
theorem spinOver_past (w : WaitKind) (ph : Phase) (a : Pins) (rest : List EnvEvent) (ha : w.holds a = true) :
    ∀ (ws : List Pins) (s : State), (∀ p ∈ ws, w.holds p = false) →
      spinOver w ph s (ws.map .peer ++ .peer a :: rest) =
        .done (State.record (.waited w) { s with pins := a, env := rest })
  | [], s, _ => by simp [spinOver, ha]
  | p :: ws, s, hw => by
    simp only [List.map_cons, List.cons_append, spinOver, hw p (by simp)]
    exact spinOver_past w ph a rest ha ws _ fun q hq => hw q (by simp [hq])

/-! ## Changes of the engine that the peer's lines have no part in -/

/-- A change that neither reads nor writes the environment, nor the configuration. -/
abbrev EngineOp (f : State → State) : Prop :=
  ∀ s p e, f { s with pins := p, env := e } = { f s with pins := p, env := e } ∧ (f s).cfg = s.cfg

/-- `s` is the engine `s0`, met by an environment with no watchdog reset in it whose lines come to rest at `p`. -/
def Tracks (p : Pins) (s0 s : State) : Prop :=
  s.engine = s0.engine ∧ NoReset s ∧ restPins s.pins s.env = p

/-- The sequence comes to its end, and the engine it leaves is `s0`. -/
def Yields (p : Pins) (f : Flow State) (s0 : State) : Prop := ∃ t, f = .done t ∧ Tracks p s0 t

/-- The sequence comes to its end with result `a`, and the engine it leaves is `s0`. -/
def YieldsV (p : Pins) (f : Flow (α × State)) (a : α) (s0 : State) : Prop := ∃ t, f = .done (a, t) ∧ Tracks p s0 t

variable {p : Pins}

theorem tracks_self {s : State} (h : NoReset s) : Tracks (restPins s.pins s.env) s s := ⟨rfl, h, rfl⟩

theorem tracks_cfg {s0 s : State} (h : Tracks p s0 s) : s.cfg = s0.cfg := (congrArg State.cfg h.1 :)

theorem tracks_buf {s0 s : State} (h : Tracks p s0 s) : s.buf = s0.buf := (congrArg State.buf h.1 :)

theorem tracks_dsReady {s0 s : State} (h : Tracks p s0 s) : s.dsReady = s0.dsReady := (congrArg State.dsReady h.1 :)

theorem tracks_dsCapacity {s0 s : State} (h : Tracks p s0 s) : s.dsCapacity = s0.dsCapacity :=
  (congrArg State.dsCapacity h.1 :)

theorem tracks_dOut {s0 s : State} (h : Tracks p s0 s) : s.dOut = s0.dOut := (congrArg State.dOut h.1 :)

/-- A state is its engine with an environment put back. -/
theorem eq_of_engine {s0 s : State} (h : s.engine = s0.engine) :
    s = { s0 with pins := s.pins, env := s.env } :=
  congrArg (fun x : State => { x with pins := s.pins, env := s.env }) h

theorem tracks_op {f : State → State} (hf : EngineOp f) {s0 s : State} (h : Tracks p s0 s) :
    Tracks p (f s0) (f s) := by
  have e : f s = { f s0 with pins := s.pins, env := s.env } := by
    conv => lhs; rw [eq_of_engine h.1]
    exact (hf s0 _ _).1
  refine ⟨?_, ?_, ?_⟩
  · rw [e]; rfl
  · rw [e]; exact h.2.1
  · rw [e]; exact h.2.2

theorem yields_bind {f : Flow State} {g : State → Flow State} {s0 s1 : State}
    (hf : Yields p f s0) (hg : ∀ t, Tracks p s0 t → Yields p (g t) s1) : Yields p (f.bind g) s1 := by
  obtain ⟨t, rfl, ht⟩ := hf
  exact hg t ht

theorem yieldsV_bind {f : Flow (α × State)} {g : α × State → Flow State} {a : α} {s0 s1 : State}
    (hf : YieldsV p f a s0) (hg : ∀ t, Tracks p s0 t → Yields p (g (a, t)) s1) : Yields p (f.bind g) s1 := by
  obtain ⟨t, rfl, ht⟩ := hf
  exact hg t ht

theorem yieldsV_bindV {f : Flow (α × State)} {g : α × State → Flow (β × State)} {a : α} {b : β} {s0 s1 : State}
    (hf : YieldsV p f a s0) (hg : ∀ t, Tracks p s0 t → YieldsV p (g (a, t)) b s1) : YieldsV p (f.bind g) b s1 := by
  obtain ⟨t, rfl, ht⟩ := hf
  exact hg t ht

theorem yields_bindV {f : Flow State} {g : State → Flow (β × State)} {b : β} {s0 s1 : State}
    (hf : Yields p f s0) (hg : ∀ t, Tracks p s0 t → YieldsV p (g t) b s1) : YieldsV p (f.bind g) b s1 := by
  obtain ⟨t, rfl, ht⟩ := hf
  exact hg t ht

theorem yields_done {s0 s : State} (h : Tracks p s0 s) : Yields p (.done s) s0 := ⟨s, rfl, h⟩

theorem yieldsV_done {a : α} {s0 s : State} (h : Tracks p s0 s) : YieldsV p (.done (a, s)) a s0 := ⟨s, rfl, h⟩

/-- The outcome of a sequence that comes to its end. -/
theorem next_of_yields {f : Flow State} {s0 : State} (h : Yields p f s0) :
    ∃ t, f.next = .next t ∧ Tracks p s0 t := by
  obtain ⟨t, rfl, ht⟩ := h
  exact ⟨t, rfl, ht⟩

end Sys2Proof.Machine
end

