-- ==== Sys2Proof/Laws/Results.lean ====
section
/-! SUPPORT. What each shared operation does when no watchdog reset comes and every wait ends: one lemma for each. -/

namespace Sys2Proof.Machine

variable {p : Pins}

/-! ## Atomic steps -/

theorem tick_yields {s0 s : State} (h : Tracks p s0 s) : Yields p (tick s) s0 := by
  obtain ⟨he, hn, hr⟩ := h
  unfold tick
  split
  · exact ⟨s, rfl, he, hn, hr⟩
  · next q es heq =>
    refine ⟨_, rfl, he, ?_, ?_⟩
    · simp only [NoReset, heq, List.mem_cons, not_or] at hn
      exact hn.2
    · rw [← hr, heq]; rfl
  · next es heq => simp [NoReset, heq] at hn

theorem act_yields {f : State → State} (hf : EngineOp f) {s0 s : State} (h : Tracks p s0 s) :
    Yields p (act f s) (f s0) :=
  yields_bind (tick_yields h) fun _ ht => yields_done (tracks_op hf ht)

theorem record_op (e : Event) : EngineOp (State.record e) := fun _ _ _ => ⟨rfl, rfl⟩
theorem writeLed_op (b : Bool) : EngineOp (State.writeLed b) := fun _ _ _ => ⟨rfl, rfl⟩
theorem writeGuard_op (b : Bool) : EngineOp (State.writeGuard b) := fun _ _ _ => ⟨rfl, rfl⟩
theorem writeStatusDone_op (b : Bool) : EngineOp (State.writeStatusDone b) := fun _ _ _ => ⟨rfl, rfl⟩
theorem writeReady_op (b : Bool) : EngineOp (State.writeReady b) := fun _ _ _ => ⟨rfl, rfl⟩
theorem writeCapacity_op (n : Nat) : EngineOp (writeCapacity n) := fun _ _ _ => ⟨rfl, rfl⟩
theorem writeRem_op (n : Nat) : EngineOp (writeRem n) := fun _ _ _ => ⟨rfl, rfl⟩
theorem writeBlk_op (b : Nat) : EngineOp (writeBlk b) := fun _ _ _ => ⟨rfl, rfl⟩
theorem writeCnt_op (n : Nat) : EngineOp (writeCnt n) := fun _ _ _ => ⟨rfl, rfl⟩
theorem memWrite_op (l : List Byte) : EngineOp (memWrite l) := fun _ _ _ => ⟨rfl, rfl⟩
theorem storeByte_op (i : Nat) (v : Byte) : EngineOp (storeByte i v) := fun _ _ _ => ⟨rfl, rfl⟩
theorem releaseLines_op (l : LineSet) : EngineOp (releaseLines l) := fun _ _ _ => ⟨rfl, rfl⟩
theorem writePhase_op (p : Phase) : EngineOp (writePhase p) := fun _ _ _ => ⟨rfl, rfl⟩
theorem after_op (tr : List Event) : EngineOp (State.after tr) := fun _ _ _ => ⟨rfl, rfl⟩

theorem setLed_yields (b : Bool) {s0 s : State} (h : Tracks p s0 s) :
    Yields p (setLed b s) (State.writeLed b s0) := act_yields (writeLed_op b) h

theorem setGuard_yields (b : Bool) {s0 s : State} (h : Tracks p s0 s) :
    Yields p (setGuard b s) (State.writeGuard b s0) := act_yields (writeGuard_op b) h

theorem release_yields (l : LineSet) {s0 s : State} (h : Tracks p s0 s) :
    Yields p (release l s) (releaseLines l s0) := act_yields (releaseLines_op l) h

theorem driveData_yields (v : Byte) {s0 s : State} (h : Tracks p s0 s) :
    Yields p (driveData v s) (State.record (.droveData v) { s0 with dOut := .drive v }) :=
  act_yields (f := fun s => State.record (.droveData v) { s with dOut := .drive v }) (fun _ _ _ => ⟨rfl, rfl⟩) h

theorem pulseLow_yields (n : Nat) {s0 s : State} (h : Tracks p s0 s) :
    Yields p (pulseLow n s) (State.record (.pulsedDrq n) { s0 with drqOut := .released }) :=
  act_yields (f := fun s => drqHigh (State.record (.pulsedDrq n) (drqLow s))) (fun _ _ _ => ⟨rfl, rfl⟩) h

theorem assertIrq_yields {s0 s : State} (h : Tracks p s0 s) :
    Yields p (assertIrq s) (State.record .assertedIrq { s0 with irqOut := .asserted }) :=
  act_yields (f := fun s => State.record .assertedIrq { s with irqOut := .asserted }) (fun _ _ _ => ⟨rfl, rfl⟩) h

theorem wdgService_yields {s0 s : State} (h : Tracks p s0 s) :
    Yields p (wdgService s) (State.record .wdgService s0) := act_yields (record_op _) h

theorem recoveryDelay_yields {s0 s : State} (h : Tracks p s0 s) :
    Yields p (recoveryDelay s) (State.record (.delayed s0.cfg.recoveryDelay) s0) :=
  act_yields (f := fun s => State.record (.delayed s.cfg.recoveryDelay) s) (fun _ _ _ => ⟨rfl, rfl⟩) h

/-- A sample of the data lines that the engine has released reads the peer's byte and changes nothing. -/
theorem sampleData_yields {s0 s : State} (h : Tracks p s0 s) (hd : s0.dOut = .released) :
    ∃ v, YieldsV p (sampleData s) v (State.record (.sampledData v) s0) := by
  obtain ⟨t, ht, htr⟩ := tick_yields h
  refine ⟨t.pins.data, _, ?_, tracks_op (record_op (.sampledData t.pins.data)) htr⟩
  simp [sampleData, ht, dataLines, tracks_dOut htr, hd]

/-! ## Waits -/

theorem spinOver_yields (w : WaitKind) (ph : Phase) (es : List EnvEvent) {s0 s : State}
    (he : s.engine = s0.engine) (hn : EnvEvent.watchdog ∉ es)
    (hr : restPins s.pins es = p) (hw : w.holds p = true) :
    Yields p (spinOver w ph s es) (State.record (.waited w) s0) := by
  induction es generalizing s with
  | nil =>
    have hs : w.holds s.pins := by rw [← hr] at hw; exact hw
    exact ⟨State.record (.waited w) { s with env := [] }, by rw [spinOver, if_pos hs],
      (congrArg (State.record (.waited w)) he :), by simp [NoReset], hr⟩
  | cons e es ih =>
    cases e with
    | peer q =>
      have hn' : EnvEvent.watchdog ∉ es := fun h => hn (List.mem_cons_of_mem _ h)
      by_cases hp : w.holds q
      · exact ⟨State.record (.waited w) { s with pins := q, env := es }, by rw [spinOver, if_pos hp],
          (congrArg (State.record (.waited w)) he :), hn', hr⟩
      · rw [spinOver, if_neg hp]
        exact ih he hn' hr
    | watchdog => simp at hn

theorem spinUntil_yields (w : WaitKind) (ph : Phase) {s0 s : State} (h : Tracks p s0 s)
    (hw : w.holds p = true) : Yields p (spinUntil w ph s) (State.record (.waited w) s0) :=
  spinOver_yields w ph s.env h.1 h.2.1 h.2.2 hw

/-! ## The status handshake (R190) -/

theorem statusReturn_yields {s0 s : State} (h : Tracks p s0 s) :
    Yields p (statusReturn s)
      (State.after [.released .all, .guardSet false]
        { s0 with
          phase := .idle, guard := false
          dOut := .released, drqOut := .released, irqOut := .released
          statusDone := true }) :=
  yields_bind (release_yields .all h) fun _ h1 =>
  yields_bind (setGuard_yields false h1) fun _ h2 =>
  yields_bind (act_yields (writeStatusDone_op true) h2) fun _ h3 => act_yields (writePhase_op .idle) h3

theorem sendStatus_yields (code : Byte) {s0 s : State} (h : Tracks p s0 s) (hl : s0.cfg.statusWait = .level) (hc : p.cs = .deasserted) :
    Yields p (sendStatus code s) (finished code s0) :=
  yields_bind (act_yields (f := fun s => writePhase (.sendingStatus (statusStart s.cfg)) s)
    (fun _ _ _ => ⟨rfl, rfl⟩) h) fun _ h0 =>
  yields_bind (setLed_yields false h0) fun _ h1 =>
  yields_bind (setGuard_yields true h1) fun _ h2 =>
  yields_bind (driveData_yields code h2) fun _ h3 =>
  yields_bind (assertIrq_yields h3) fun t h4 => by
    have hl : t.cfg.statusWait = .level := by rw [tracks_cfg h4]; exact hl
    have hw : WaitKind.csDeasserted.holds p := by
      simp only [WaitKind.holds, hc, decide_true]
    rw [statusWait, hl]
    exact yields_bind (spinUntil_yields .csDeasserted _ h4 hw) fun _ h5 => statusReturn_yields h5

theorem sendSuccess_yields {s0 s : State} (h : Tracks p s0 s) (hl : s0.cfg.statusWait = .level) (hc : p.cs = .deasserted) :
    Yields p (sendSuccess s) (finished statusOk s0) := sendStatus_yields _ h hl hc

theorem raiseError_yields (k : ErrorKind) {s0 s : State} (h : Tracks p s0 s) (hl : s0.cfg.statusWait = .level) (hc : p.cs = .deasserted) :
    Yields p (raiseError k s) (finished statusErr (State.record (.raised k) s0)) :=
  sendStatus_yields _ (tracks_op (record_op _) h) hl hc

/-! ## Transfers (R141, R142) -/

theorem after_after (t u : List Event) (s : State) : State.after u (State.after t s) = State.after (t ++ u) s := by
  simp [State.after]

theorem endTransfer_yields {s0 s : State} (h : Tracks p s0 s) :
    Yields p (endTransfer s)
      (State.after [.released .dma, .guardSet false]
        { s0 with guard := false, dOut := .released, drqOut := .released }) :=
  yields_bind (release_yields .dma h) fun _ h1 => setGuard_yields false h1

theorem ack_holds (ha : p.ack = .asserted) :
    WaitKind.ackAsserted.holds p := by
  simp only [WaitKind.holds, ha, decide_true]

theorem sendFrom_yields (n : Nat) (next : AfterSend) (k i : Nat) {s0 s : State} (h : Tracks p s0 s)
    (ha : p.ack = .asserted) :
    Yields p (sendFrom n next k i s)
      (State.after
        (((List.range' i k).map (Memory.read s0.buf)).flatMap (sendByteTrace s0.cfg) ++
          [.released .dma, .guardSet false])
        { s0 with guard := false, dOut := .released, drqOut := .released }) := by
  induction k generalizing i s s0 with
  | zero => exact endTransfer_yields h
  | succ k ih =>
    refine yields_bind (driveData_yields _ h) fun t1 h1 => ?_
    refine yields_bind (pulseLow_yields _ h1) fun t2 h2 => ?_
    refine yields_bind (spinUntil_yields .ackAsserted _ h2 (ack_holds ha)) fun t3 h3 => ?_
    have e := ih (i + 1) h3
    rw [tracks_buf h, tracks_cfg h1] at e
    simpa [State.after, State.record, List.range'_succ, sendByteTrace] using e

theorem send_yields (n : Nat) (next : AfterSend) {s0 s : State} (h : Tracks p s0 s)
    (ha : p.ack = .asserted) :
    Yields p (send n next s) (sent (Memory.bytes s0.buf n) s0) := by
  refine yields_bind (setGuard_yields true h) fun t h1 => ?_
  have e := sendFrom_yields n next n 0 h1 ha
  simpa [State.after, State.writeGuard, State.record, sent, sendTrace, sendByteTrace, Memory.bytes,
    List.range_eq_range'] using e

theorem recvFrom_yields (k i : Nat) {s0 s : State} (h : Tracks p s0 s) (hd : s0.dOut = .released)
    (ha : p.ack = .asserted) :
    ∃ l : List Byte, l.length = k ∧
      Yields p (recvFrom k i s)
        (State.after (l.flatMap (recvByteTrace s0.cfg) ++ [.released .dma, .guardSet false])
          { s0 with buf := Memory.writeBytes s0.buf i l, guard := false, dOut := .released, drqOut := .released }) := by
  induction k generalizing i s s0 with
  | zero => exact ⟨[], rfl, endTransfer_yields h⟩
  | succ k ih =>
    obtain ⟨t1, e1, h1⟩ := pulseLow_yields s.cfg.recvPulseCycles h
    obtain ⟨v, t2, e2, h2⟩ := sampleData_yields h1 hd
    obtain ⟨t2', e2', h2'⟩ := act_yields (storeByte_op i v) h2
    obtain ⟨t3, e3, h3⟩ := spinUntil_yields .ackAsserted (.dispatching (.recvAck i)) h2' (ack_holds ha)
    obtain ⟨l, hl, hy⟩ := ih (i + 1) h3 hd
    refine ⟨v :: l, by simp [hl], ?_⟩
    rw [recvFrom, e1, bind_done, e2, bind_done]
    simp only [e2', bind_done, waitRecvAck, e3]
    rw [tracks_cfg h] at hy
    simpa [State.after, State.record, storeByte, recvByteTrace, Memory.writeBytes] using hy

/-- A `Receive` of `n` bytes stores the bytes it sampled, in the order it sampled them (R142). -/
theorem receive_yields (n : Nat) {s0 s : State} (h : Tracks p s0 s) (hd : s0.dOut = .released)
    (ha : p.ack = .asserted) :
    ∃ l : List Byte, l.length = n ∧
      Yields p (receive n s) (stored l s0) := by
  obtain ⟨t, e, h1⟩ := setGuard_yields true h
  obtain ⟨l, hl, hy⟩ := recvFrom_yields n 0 h1 hd ha
  refine ⟨l, hl, ?_⟩
  rw [receive, e, bind_done]
  simpa [stored, State.after, State.writeGuard, State.record, recvTrace, recvByteTrace] using hy

/-- The bytes of a response, stored one by one, are in the buffer in order (R262). -/
theorem storeBytes_yields (l : List Byte) (i : Nat) {s0 s : State} (h : Tracks p s0 s) :
    Yields p (storeBytes l i s) { s0 with buf := Memory.writeBytes s0.buf i l } := by
  induction l generalizing i s s0 with
  | nil => exact yields_done h
  | cons v l ih => exact yields_bind (act_yields (storeByte_op i v) h) fun _ ht => ih (i + 1) ht

/-! ## The Storage Access Layer (R206) -/

theorem nextReply_tracks {s0 s : State} (h : Tracks p s0 s) : nextReply s = nextReply s0 := by
  have hr : s.replies = s0.replies := (congrArg State.replies h.1 :)
  have hd : s.draws = s0.draws := (congrArg State.draws h.1 :)
  unfold nextReply
  rw [hr, hd]

theorem popReply_op : EngineOp popReply := fun _ _ _ => ⟨rfl, rfl⟩

/-- A call of the collaborator takes its next answer and acts on it. -/
theorem collCall_yields {α : Type} (f : CollReply → State → α × State)
    (hv : ∀ r s p e, (f r { s with pins := p, env := e }).1 = (f r s).1)
    (hf : ∀ r, EngineOp fun s => (f r s).2) {s0 s : State} (h : Tracks p s0 s) :
    YieldsV p (collCall f s) (f (nextReply s0) (popReply s0)).1 (f (nextReply s0) (popReply s0)).2 := by
  obtain ⟨t, e, ht⟩ := tick_yields h
  have hp := tracks_op popReply_op ht
  refine ⟨(f (nextReply t) (popReply t)).2, ?_, ?_⟩
  · have h1 : (f (nextReply t) (popReply t)).1 = (f (nextReply s0) (popReply s0)).1 := by
      rw [nextReply_tracks ht]
      conv => lhs; rw [eq_of_engine hp.1]
      exact hv _ _ _ _
    simp only [collCall, e, bind_done, ← h1]
  · rw [nextReply_tracks ht]
    exact tracks_op (hf _) hp

theorem setReady_yields (ok : Bool) {s0 s : State} (h : Tracks p s0 s) :
    YieldsV p (setReady ok s) ok (State.writeReady ok s0) :=
  yields_bindV (act_yields (writeReady_op ok) h) fun _ ht => yieldsV_done ht

theorem initDevice_yields {s0 s : State} (h : Tracks p s0 s) :
    YieldsV p (initDevice s) (nextReply s0).ok (reinit s0) := by
  have h1 := collCall_yields (fun r s => (r.ok, State.record (.collInit r.ok) s)) (fun _ _ _ _ => rfl)
    (fun _ _ _ _ => ⟨rfl, rfl⟩) h
  refine yieldsV_bindV h1 fun t ht => ?_
  have ht : Tracks p (initAnswered s0) t := ht
  unfold reinit
  cases hok : (nextReply s0).ok
  · exact setReady_yields false ht
  · refine yieldsV_bindV (collCall_yields (fun r s => (r.capacity, State.record (.collCapacity r.capacity) s))
      (fun _ _ _ _ => rfl) (fun _ _ _ _ => ⟨rfl, rfl⟩) ht) fun u hu => ?_
    exact yields_bindV (act_yields (writeCapacity_op _) hu) fun _ hv => setReady_yields true hv

@[simp] theorem reinit_cfg (s : State) : (reinit s).cfg = s.cfg := by unfold reinit; split <;> rfl
@[simp] theorem reinit_phase (s : State) : (reinit s).phase = s.phase := by unfold reinit; split <;> rfl
@[simp] theorem reinit_cf (s : State) : (reinit s).cf = s.cf := by unfold reinit; split <;> rfl
@[simp] theorem reinit_bi (s : State) : (reinit s).bi = s.bi := by unfold reinit; split <;> rfl
@[simp] theorem reinit_blk (s : State) : (reinit s).blk = s.blk := by unfold reinit; split <;> rfl
@[simp] theorem reinit_cnt (s : State) : (reinit s).cnt = s.cnt := by unfold reinit; split <;> rfl
@[simp] theorem reinit_rem (s : State) : (reinit s).rem = s.rem := by unfold reinit; split <;> rfl
@[simp] theorem reinit_led (s : State) : (reinit s).led = s.led := by unfold reinit; split <;> rfl
@[simp] theorem reinit_guard (s : State) : (reinit s).guard = s.guard := by unfold reinit; split <;> rfl
@[simp] theorem reinit_buf (s : State) : (reinit s).buf = s.buf := by unfold reinit; split <;> rfl
@[simp] theorem reinit_dOut (s : State) : (reinit s).dOut = s.dOut := by unfold reinit; split <;> rfl
@[simp] theorem reinit_drqOut (s : State) : (reinit s).drqOut = s.drqOut := by unfold reinit; split <;> rfl
@[simp] theorem reinit_irqOut (s : State) : (reinit s).irqOut = s.irqOut := by unfold reinit; split <;> rfl
@[simp] theorem reinit_statusDone (s : State) :
    (reinit s).statusDone = s.statusDone := by unfold reinit; split <;> rfl
@[simp] theorem reinit_pins (s : State) : (reinit s).pins = s.pins := by unfold reinit; split <;> rfl
@[simp] theorem reinit_env (s : State) : (reinit s).env = s.env := by unfold reinit; split <;> rfl

@[simp] theorem reinit_dsReady (s : State) : (reinit s).dsReady = (nextReply s).ok := by
  unfold reinit; cases (nextReply s).ok <;> rfl

end Sys2Proof.Machine
end

