-- ==== Sys2Proof/Laws/Storage.lean ====
section
/-! SUPPORT. What the retry procedure does (R209): with any answers of the collaborator it comes to an end within its
bounds, touches no line, no flag and no frame register, and on failure leaves the device not ready. -/

namespace Sys2Proof.Machine

variable {p : Pins}

/-- `u` is `s` after storage steps recorded as `tr`. -/
def StorageStep (s u : State) (tr : List Event) : Prop :=
  u = { s with
    rem := u.rem, dsReady := u.dsReady, dsCapacity := u.dsCapacity, replies := u.replies, draws := u.draws
    buf := u.buf, log := tr.reverse ++ s.log } ∧ ∀ e ∈ tr, e.isStorage = true

theorem storageStep_refl (s : State) : StorageStep s s [] := ⟨rfl, by simp⟩

theorem storageStep_trans {s u v : State} {a b : List Event} (h : StorageStep s u a) (k : StorageStep u v b) :
    StorageStep s v (a ++ b) := by
  obtain ⟨hu, ha⟩ := h
  obtain ⟨hv, hb⟩ := k
  refine ⟨?_, fun e he => (List.mem_append.1 he).elim (ha e) (hb e)⟩
  rw [hv, hu]
  simp

theorem initAnswered_step (s : State) : StorageStep s (initAnswered s) [.collInit (nextReply s).ok] :=
  ⟨rfl, by simp [Event.isStorage]⟩

theorem capacityAnswered_step (s : State) :
    StorageStep s (capacityAnswered s) [.collCapacity (nextReply s).capacity] :=
  ⟨rfl, by simp [Event.isStorage]⟩

theorem reinit_step (s : State) :
    ∃ tr, StorageStep s (reinit s) tr ∧ tr.countP Event.isAccess = 0 ∧ tr.countP Event.isInit = 1 ∧
      tr.count .wdgService = 0 := by
  unfold reinit
  split
  · exact ⟨_, storageStep_trans (initAnswered_step s) (capacityAnswered_step _),
      by simp [List.countP_cons, Event.isAccess, Event.isInit]⟩
  · exact ⟨_, storageStep_trans (initAnswered_step s) (b := []) ⟨rfl, by simp⟩,
      by simp [List.countP_cons, Event.isAccess, Event.isInit]⟩

/-- An operation that takes one answer, is recorded as one access, and changes the engine by `g`. -/
def IsAttempt (op : State → Flow (Bool × State)) (g : State → State) : Prop :=
  (∀ (p : Pins) (s0 s : State), Tracks p s0 s → YieldsV p (op s) (nextReply s0).ok (g s0)) ∧
    ∀ s, ∃ e, StorageStep s (g s) [e] ∧ e.isAccess = true

/-- A `Coll.readBlock` as a change of the engine alone. -/
def readAnswered (i : Nat) (s : State) : State :=
  State.record (.collRead i (nextReply s).ok) (memWrite (nextReply s).data.toList (popReply s))

/-- A `Coll.writeBlock` as a change of the engine alone. -/
def writeAnswered (i : Nat) (s : State) : State :=
  State.record (.collWrite i (Memory.bytes s.buf blockSize) (nextReply s).ok) (popReply s)

@[simp] theorem readAnswered_cfg (i : Nat) (s : State) : (readAnswered i s).cfg = s.cfg := rfl
@[simp] theorem readAnswered_phase (i : Nat) (s : State) : (readAnswered i s).phase = s.phase := rfl
@[simp] theorem readAnswered_cf (i : Nat) (s : State) : (readAnswered i s).cf = s.cf := rfl
@[simp] theorem readAnswered_bi (i : Nat) (s : State) : (readAnswered i s).bi = s.bi := rfl
@[simp] theorem readAnswered_blk (i : Nat) (s : State) : (readAnswered i s).blk = s.blk := rfl
@[simp] theorem readAnswered_cnt (i : Nat) (s : State) : (readAnswered i s).cnt = s.cnt := rfl
@[simp] theorem readAnswered_rem (i : Nat) (s : State) : (readAnswered i s).rem = s.rem := rfl
@[simp] theorem readAnswered_led (i : Nat) (s : State) : (readAnswered i s).led = s.led := rfl
@[simp] theorem readAnswered_guard (i : Nat) (s : State) : (readAnswered i s).guard = s.guard := rfl
@[simp] theorem readAnswered_dsReady (i : Nat) (s : State) : (readAnswered i s).dsReady = s.dsReady := rfl
@[simp] theorem readAnswered_dsCapacity (i : Nat) (s : State) : (readAnswered i s).dsCapacity = s.dsCapacity := rfl
@[simp] theorem readAnswered_buf (i : Nat) (s : State) :
    (readAnswered i s).buf = Memory.writeBytes s.buf 0 (nextReply s).data.toList := rfl
@[simp] theorem readAnswered_dOut (i : Nat) (s : State) : (readAnswered i s).dOut = s.dOut := rfl
@[simp] theorem readAnswered_drqOut (i : Nat) (s : State) : (readAnswered i s).drqOut = s.drqOut := rfl
@[simp] theorem readAnswered_irqOut (i : Nat) (s : State) : (readAnswered i s).irqOut = s.irqOut := rfl
@[simp] theorem readAnswered_statusDone (i : Nat) (s : State) : (readAnswered i s).statusDone = s.statusDone := rfl
@[simp] theorem readAnswered_pins (i : Nat) (s : State) : (readAnswered i s).pins = s.pins := rfl
@[simp] theorem readAnswered_env (i : Nat) (s : State) : (readAnswered i s).env = s.env := rfl
@[simp] theorem readAnswered_replies (i : Nat) (s : State) : (readAnswered i s).replies = s.replies.tail := rfl
@[simp] theorem readAnswered_draws (i : Nat) (s : State) :
    (readAnswered i s).draws = if s.replies.isEmpty then s.draws + 1 else s.draws := rfl
@[simp] theorem readAnswered_log (i : Nat) (s : State) :
    (readAnswered i s).log = .collRead i (nextReply s).ok :: s.log := rfl

@[simp] theorem writeAnswered_cfg (i : Nat) (s : State) : (writeAnswered i s).cfg = s.cfg := rfl
@[simp] theorem writeAnswered_phase (i : Nat) (s : State) : (writeAnswered i s).phase = s.phase := rfl
@[simp] theorem writeAnswered_cf (i : Nat) (s : State) : (writeAnswered i s).cf = s.cf := rfl
@[simp] theorem writeAnswered_bi (i : Nat) (s : State) : (writeAnswered i s).bi = s.bi := rfl
@[simp] theorem writeAnswered_blk (i : Nat) (s : State) : (writeAnswered i s).blk = s.blk := rfl
@[simp] theorem writeAnswered_cnt (i : Nat) (s : State) : (writeAnswered i s).cnt = s.cnt := rfl
@[simp] theorem writeAnswered_rem (i : Nat) (s : State) : (writeAnswered i s).rem = s.rem := rfl
@[simp] theorem writeAnswered_led (i : Nat) (s : State) : (writeAnswered i s).led = s.led := rfl
@[simp] theorem writeAnswered_guard (i : Nat) (s : State) : (writeAnswered i s).guard = s.guard := rfl
@[simp] theorem writeAnswered_dsReady (i : Nat) (s : State) : (writeAnswered i s).dsReady = s.dsReady := rfl
@[simp] theorem writeAnswered_dsCapacity (i : Nat) (s : State) : (writeAnswered i s).dsCapacity = s.dsCapacity := rfl
@[simp] theorem writeAnswered_buf (i : Nat) (s : State) : (writeAnswered i s).buf = s.buf := rfl
@[simp] theorem writeAnswered_dOut (i : Nat) (s : State) : (writeAnswered i s).dOut = s.dOut := rfl
@[simp] theorem writeAnswered_drqOut (i : Nat) (s : State) : (writeAnswered i s).drqOut = s.drqOut := rfl
@[simp] theorem writeAnswered_irqOut (i : Nat) (s : State) : (writeAnswered i s).irqOut = s.irqOut := rfl
@[simp] theorem writeAnswered_statusDone (i : Nat) (s : State) : (writeAnswered i s).statusDone = s.statusDone := rfl
@[simp] theorem writeAnswered_pins (i : Nat) (s : State) : (writeAnswered i s).pins = s.pins := rfl
@[simp] theorem writeAnswered_env (i : Nat) (s : State) : (writeAnswered i s).env = s.env := rfl
@[simp] theorem writeAnswered_replies (i : Nat) (s : State) : (writeAnswered i s).replies = s.replies.tail := rfl
@[simp] theorem writeAnswered_draws (i : Nat) (s : State) :
    (writeAnswered i s).draws = if s.replies.isEmpty then s.draws + 1 else s.draws := rfl
@[simp] theorem writeAnswered_log (i : Nat) (s : State) :
    (writeAnswered i s).log = .collWrite i (Memory.bytes s.buf blockSize) (nextReply s).ok :: s.log := rfl

theorem collRead_yields (i : Nat) {s0 s : State} (h : Tracks p s0 s) :
    YieldsV p (collRead i s) (nextReply s0).ok (readAnswered i s0) :=
  collCall_yields (fun r s => (r.ok, State.record (.collRead i r.ok) (memWrite r.data.toList s)))
    (fun _ _ _ _ => rfl) (fun _ _ _ _ => ⟨rfl, rfl⟩) h

theorem collWrite_yields (i : Nat) {s0 s : State} (h : Tracks p s0 s) :
    YieldsV p (collWrite i s) (nextReply s0).ok (writeAnswered i s0) :=
  collCall_yields (fun r s => (r.ok, State.record (.collWrite i (Memory.bytes s.buf blockSize) r.ok) s))
    (fun _ _ _ _ => rfl) (fun _ _ _ _ => ⟨rfl, rfl⟩) h

theorem collRead_attempt (i : Nat) : IsAttempt (collRead i) (readAnswered i) :=
  ⟨fun _ _ _ h => collRead_yields i h, fun _ => ⟨_, ⟨rfl, by simp [Event.isStorage]⟩, rfl⟩⟩

theorem collWrite_attempt (i : Nat) : IsAttempt (collWrite i) (writeAnswered i) :=
  ⟨fun _ _ _ h => collWrite_yields i h, fun _ => ⟨_, ⟨rfl, by simp [Event.isStorage]⟩, rfl⟩⟩

/-- The gap before the forced reinitialization, as a change of the engine alone. -/
def gapPassed (n : Nat) (s : State) : State := State.after (gapTrace s.cfg) (writeRem n s)

@[simp] theorem gapPassed_cfg (n : Nat) (s : State) : (gapPassed n s).cfg = s.cfg := rfl
@[simp] theorem gapPassed_phase (n : Nat) (s : State) : (gapPassed n s).phase = s.phase := rfl
@[simp] theorem gapPassed_cf (n : Nat) (s : State) : (gapPassed n s).cf = s.cf := rfl
@[simp] theorem gapPassed_bi (n : Nat) (s : State) : (gapPassed n s).bi = s.bi := rfl
@[simp] theorem gapPassed_blk (n : Nat) (s : State) : (gapPassed n s).blk = s.blk := rfl
@[simp] theorem gapPassed_cnt (n : Nat) (s : State) : (gapPassed n s).cnt = s.cnt := rfl
@[simp] theorem gapPassed_rem (n : Nat) (s : State) : (gapPassed n s).rem = n := rfl
@[simp] theorem gapPassed_led (n : Nat) (s : State) : (gapPassed n s).led = s.led := rfl
@[simp] theorem gapPassed_guard (n : Nat) (s : State) : (gapPassed n s).guard = s.guard := rfl
@[simp] theorem gapPassed_dsReady (n : Nat) (s : State) : (gapPassed n s).dsReady = s.dsReady := rfl
@[simp] theorem gapPassed_dsCapacity (n : Nat) (s : State) : (gapPassed n s).dsCapacity = s.dsCapacity := rfl
@[simp] theorem gapPassed_buf (n : Nat) (s : State) : (gapPassed n s).buf = s.buf := rfl
@[simp] theorem gapPassed_dOut (n : Nat) (s : State) : (gapPassed n s).dOut = s.dOut := rfl
@[simp] theorem gapPassed_drqOut (n : Nat) (s : State) : (gapPassed n s).drqOut = s.drqOut := rfl
@[simp] theorem gapPassed_irqOut (n : Nat) (s : State) : (gapPassed n s).irqOut = s.irqOut := rfl
@[simp] theorem gapPassed_statusDone (n : Nat) (s : State) : (gapPassed n s).statusDone = s.statusDone := rfl
@[simp] theorem gapPassed_pins (n : Nat) (s : State) : (gapPassed n s).pins = s.pins := rfl
@[simp] theorem gapPassed_env (n : Nat) (s : State) : (gapPassed n s).env = s.env := rfl
@[simp] theorem gapPassed_replies (n : Nat) (s : State) : (gapPassed n s).replies = s.replies := rfl
@[simp] theorem gapPassed_draws (n : Nat) (s : State) : (gapPassed n s).draws = s.draws := rfl
@[simp] theorem gapPassed_log (n : Nat) (s : State) : (gapPassed n s).log = (gapTrace s.cfg).reverse ++ s.log := rfl

theorem retryGap_yields (n : Nat) {s0 s : State} (h : Tracks p (writeRem n s0) s) :
    YieldsV p (retryGap n s) (if n ≤ retryBound / 2 then (nextReply s0).ok else true)
      (if n ≤ retryBound / 2 then reinit (gapPassed n s0) else gapPassed n s0) := by
  refine yields_bindV (wdgService_yields (tracks_op (record_op (.raised .storageTransient)) h)) fun t ht => ?_
  refine yields_bindV (recoveryDelay_yields ht) fun u hu => ?_
  by_cases hn : n ≤ retryBound / 2
  · simp only [if_pos hn]
    exact initDevice_yields (s0 := gapPassed n s0) hu
  · simp only [if_neg hn]
    exact yieldsV_done hu

theorem gapPassed_step (n : Nat) (s : State) : StorageStep s (gapPassed n s) (gapTrace s.cfg) :=
  ⟨rfl, by simp [gapTrace, Event.isStorage]⟩

theorem gap_access (c : Config) : (gapTrace c).countP Event.isAccess = 0 := rfl
theorem gap_init (c : Config) : (gapTrace c).countP Event.isInit = 0 := rfl
theorem gap_service (c : Config) : (gapTrace c).count .wdgService = 1 := rfl

/-- The retry procedure with `n` attempts left: it ends, whatever the collaborator answers and the peer's lines do. -/
theorem retryFrom_yields {op : State → Flow (Bool × State)} {g : State → State} (hop : IsAttempt op g) (n : Nat)
    (s0 : State) :
    ∃ b u tr, (∀ (p : Pins) (s : State), Tracks p s0 s → YieldsV p (retryFrom op n s) b u) ∧
      StorageStep s0 u tr ∧ (b = false → u.dsReady = false) ∧ tr.countP Event.isAccess ≤ n ∧
      tr.count .wdgService ≤ n - 1 ∧ tr.countP Event.isInit ≤ min (n - 1) (retryBound / 2) := by
  induction n generalizing s0 with
  | zero =>
    exact ⟨false, State.writeReady false s0, [], fun p s h => setReady_yields false h,
      ⟨rfl, by simp⟩, fun _ => rfl, by simp, by simp, by simp⟩
  | succ n ih =>
    obtain ⟨e, hs, he⟩ := hop.2 s0
    have hi : Event.isInit e = false := by cases e <;> simp_all [Event.isAccess, Event.isInit]
    have hw : e ≠ .wdgService := by rintro rfl; simp [Event.isAccess] at he
    have hs1 : List.count .wdgService [e] = 0 := by simp [hw]
    cases hok : (nextReply s0).ok
    · by_cases hn : n = 0
      · subst hn
        refine ⟨false, State.writeReady false (writeRem 0 (g s0)), [e], ?_, ?_, fun _ => rfl, by simp [he],
          by simp [hw], by simp [hi]⟩
        · intro p s h
          refine yieldsV_bindV (hop.1 p s0 s h) fun t ht => ?_
          simp only [hok, Bool.false_eq_true, if_false, if_true]
          exact yields_bindV (act_yields (writeRem_op 0) ht) fun _ hu => setReady_yields false hu
        · exact storageStep_trans (a := [e]) (b := []) hs ⟨rfl, by simp⟩
      · have hg := gapPassed_step n (g s0)
        by_cases hh : n ≤ retryBound / 2
        · obtain ⟨ti, hti, ha, hin, hwd⟩ := reinit_step (gapPassed n (g s0))
          have h2 := storageStep_trans (storageStep_trans hs hg) hti
          cases hok2 : (nextReply (g s0)).ok
          · refine ⟨false, reinit (gapPassed n (g s0)), _, ?_, h2, ?_, ?_, ?_, ?_⟩
            · intro p s h
              refine yieldsV_bindV (hop.1 p s0 s h) fun t ht => ?_
              simp only [hok, Bool.false_eq_true, if_false, hn]
              refine yields_bindV (act_yields (writeRem_op n) ht) fun t' ht' => ?_
              have hgap := retryGap_yields n ht'
              simp only [if_pos hh] at hgap
              refine yieldsV_bindV hgap fun v hv => ?_
              simp only [hok2, Bool.false_eq_true, if_false]
              exact yieldsV_done hv
            · intro _
              exact (reinit_dsReady _).trans hok2
            · simp only [List.countP_append, List.countP_singleton, gap_access, ha, he, if_true]
              omega
            · simp only [List.count_append, gap_service, hs1, hwd]
              omega
            · simp only [List.countP_append, List.countP_singleton, gap_init, hin, hi, Bool.false_eq_true, if_false]
              simp only [retryBound]
              omega
          · obtain ⟨b, u, tr, hy, hst, hb, c1, c2, c3⟩ := ih (reinit (gapPassed n (g s0)))
            refine ⟨b, u, _, ?_, storageStep_trans h2 hst, hb, ?_, ?_, ?_⟩
            · intro p s h
              refine yieldsV_bindV (hop.1 p s0 s h) fun t ht => ?_
              simp only [hok, Bool.false_eq_true, if_false, hn]
              refine yields_bindV (act_yields (writeRem_op n) ht) fun t' ht' => ?_
              have hgap := retryGap_yields n ht'
              simp only [if_pos hh] at hgap
              refine yieldsV_bindV hgap fun v hv => ?_
              simp only [hok2, if_true]
              exact hy p v hv
            · simp only [List.countP_append, List.countP_singleton, gap_access, ha, he, if_true]
              omega
            · simp only [List.count_append, gap_service, hs1, hwd]
              omega
            · simp only [List.countP_append, List.countP_singleton, gap_init, hin, hi, Bool.false_eq_true, if_false]
              simp only [retryBound] at c3 hh ⊢
              omega
        · obtain ⟨b, u, tr, hy, hst, hb, c1, c2, c3⟩ := ih (gapPassed n (g s0))
          refine ⟨b, u, _, ?_, storageStep_trans (storageStep_trans hs hg) hst, hb, ?_, ?_, ?_⟩
          · intro p s h
            refine yieldsV_bindV (hop.1 p s0 s h) fun t ht => ?_
            simp only [hok, Bool.false_eq_true, if_false, hn]
            refine yields_bindV (act_yields (writeRem_op n) ht) fun t' ht' => ?_
            have hgap := retryGap_yields n ht'
            simp only [if_neg hh] at hgap
            refine yieldsV_bindV hgap fun v hv => ?_
            exact hy p v hv
          · simp only [List.countP_append, List.countP_singleton, gap_access, he, if_true]
            omega
          · simp only [List.count_append, gap_service, hs1]
            omega
          · simp only [List.countP_append, List.countP_singleton, gap_init, hi, Bool.false_eq_true, if_false]
            simp only [retryBound] at c3 hh ⊢
            omega
    · refine ⟨true, g s0, [e], ?_, hs, by simp, by simp [he], by simp [hw], by simp [hi]⟩
      intro p s h
      refine yieldsV_bindV (hop.1 p s0 s h) fun t ht => ?_
      simp only [hok, if_true]
      exact yieldsV_done ht

end Sys2Proof.Machine
end

