-- ==== Sys2Proof/Laws/Commands.lean ====
section
/-! SUPPORT. Every command comes to its status (R192, R241): whatever the peer's lines do and whatever the collaborator
answers, with no watchdog reset and an acknowledge in the end, a command does some steps with no status among them and
then is `SendStatus` of one of the two codes. -/

namespace Sys2Proof.Machine

variable {p : Pins}

/-- `u` is reached from `s` inside a command: some steps were recorded, none of them a status; the configuration, the
frame registers and `BI` are as they were, and so are released data lines. -/
def Within (s u : State) : Prop :=
  (∃ tr : List Event, u.log = tr.reverse ++ s.log ∧ Event.assertedIrq ∉ tr) ∧ u.cfg = s.cfg ∧ u.cf = s.cf ∧ u.bi = s.bi ∧
    (s.dOut = .released → u.dOut = .released)

theorem within_refl (s : State) : Within s s := ⟨⟨[], rfl, by simp⟩, rfl, rfl, rfl, id⟩

theorem within_trans {s u v : State} (h : Within s u) (k : Within u v) : Within s v := by
  obtain ⟨⟨a, ha, na⟩, h1, h2, h3, h4⟩ := h
  obtain ⟨⟨b, hb, nb⟩, k1, k2, k3, k4⟩ := k
  refine ⟨⟨a ++ b, by rw [hb, ha]; simp, by simp [na, nb]⟩, k1.trans h1, k2.trans h2, k3.trans h3, fun h => k4 (h4 h)⟩

/-- A recorded step that is no status. -/
theorem within_record {e : Event} (s : State) (he : e ≠ .assertedIrq) : Within s (State.record e s) :=
  ⟨⟨[e], rfl, by simpa using he.symm⟩, rfl, rfl, rfl, id⟩

theorem within_memWrite (l : List Byte) (s : State) : Within s (memWrite l s) := ⟨⟨[], rfl, by simp⟩, rfl, rfl, rfl, id⟩

theorem within_writeRem (n : Nat) (s : State) : Within s (writeRem n s) := ⟨⟨[], rfl, by simp⟩, rfl, rfl, rfl, id⟩

theorem within_writeCnt (n : Nat) (s : State) : Within s (writeCnt n s) := ⟨⟨[], rfl, by simp⟩, rfl, rfl, rfl, id⟩

theorem within_sent (l : List Byte) (s : State) : Within s (sent l s) := by
  refine ⟨⟨sendTrace s.cfg l, rfl, ?_⟩, rfl, rfl, rfl, fun _ => rfl⟩
  simp [sendTrace, sendByteTrace]

theorem within_storage {s u : State} {tr : List Event} (h : StorageStep s u tr) : Within s u := by
  obtain ⟨hu, ht⟩ := h
  refine ⟨⟨tr, (congrArg State.log hu :), fun h => ?_⟩, (congrArg State.cfg hu :), (congrArg State.cf hu :),
    (congrArg State.bi hu :), fun h => (congrArg State.dOut hu :).trans h⟩
  have := ht _ h
  simp [Event.isStorage] at this

/-- The sequence is, after steps within the command, the sending of a status. -/
def Reaches (p : Pins) (f : Flow State) (s0 : State) : Prop :=
  ∃ code u0 u, (code = statusOk ∨ code = statusErr) ∧ f = sendStatus code u ∧ Tracks p u0 u ∧ Within s0 u0

theorem reaches_within {f : Flow State} {s0 s1 : State} (h : Within s0 s1) (k : Reaches p f s1) : Reaches p f s0 := by
  obtain ⟨code, u0, u, hc, hf, ht, hw⟩ := k
  exact ⟨code, u0, u, hc, hf, ht, within_trans h hw⟩

theorem reaches_bind {f : Flow State} {g : State → Flow State} {s0 s1 : State} (hf : Yields p f s1)
    (hw : Within s0 s1) (hg : ∀ t, Tracks p s1 t → Reaches p (g t) s1) : Reaches p (f.bind g) s0 := by
  obtain ⟨t, rfl, ht⟩ := hf
  exact reaches_within hw (hg t ht)

theorem reaches_bindV {α : Type} {f : Flow (α × State)} {g : α × State → Flow State} {a : α} {s0 s1 : State}
    (hf : YieldsV p f a s1) (hw : Within s0 s1) (hg : ∀ t, Tracks p s1 t → Reaches p (g (a, t)) s1) :
    Reaches p (f.bind g) s0 := by
  obtain ⟨t, rfl, ht⟩ := hf
  exact reaches_within hw (hg t ht)

theorem sendSuccess_reaches {s0 s : State} (h : Tracks p s0 s) : Reaches p (sendSuccess s) s0 :=
  ⟨statusOk, s0, s, .inl rfl, rfl, h, within_refl s0⟩

theorem raiseError_reaches (k : ErrorKind) {s0 s : State} (h : Tracks p s0 s) : Reaches p (raiseError k s) s0 :=
  ⟨statusErr, _, _, .inr rfl, rfl, tracks_op (record_op (.raised k)) h, within_record s0 (by simp)⟩

theorem initDevice_reaches {g : Bool × State → Flow State} {s0 s : State} (h : Tracks p s0 s)
    (hg : ∀ b t, Tracks p (reinit s0) t → Reaches p (g (b, t)) (reinit s0)) :
    Reaches p ((initDevice s).bind g) s0 := by
  obtain ⟨tr, hs, _⟩ := reinit_step s0
  exact reaches_bindV (initDevice_yields h) (within_storage hs) (hg _)

theorem sendResponse_reaches (n : Nat) {s0 s : State} (h : Tracks p s0 s) (ha : p.ack = .asserted) :
    Reaches p (sendResponse n s) s0 :=
  reaches_bind (send_yields n .status h ha) (within_sent _ _) fun _ ht => sendSuccess_reaches ht

theorem respond_reaches (l : List Byte) (n : Nat) {s0 s : State} (h : Tracks p s0 s) (ha : p.ack = .asserted) :
    Reaches p (respond l n s) s0 :=
  reaches_bind (act_yields (memWrite_op l) h) (within_memWrite l s0) fun _ ht => sendResponse_reaches n ht ha

theorem inquiry_reaches (n : Nat) {s0 s : State} (h : Tracks p s0 s) (ha : p.ack = .asserted) :
    Reaches p (inquiry n s) s0 :=
  reaches_bind (storeBytes_yields _ 0 h) ⟨⟨[], rfl, by simp⟩, rfl, rfl, rfl, id⟩ fun _ ht =>
    sendResponse_reaches n ht ha

/-- A block access, with whatever answers: it ends, and leaves the state within the command. -/
theorem retry_reaches {op : State → Flow (Bool × State)} {g : State → State} (hop : IsAttempt op g)
    {k : Bool × State → Flow State} {s0 s : State} (h : Tracks p s0 s)
    (hk : ∀ b u t, Tracks p u t → Within s0 u → Reaches p (k (b, t)) u) : Reaches p ((retry op s).bind k) s0 := by
  obtain ⟨b, u, tr, hy, hs, _⟩ := retryFrom_yields hop retryBound (writeRem retryBound s0)
  have hw : Within s0 u := within_trans (within_writeRem retryBound s0) (within_storage hs)
  exact reaches_bindV (yields_bindV (act_yields (writeRem_op retryBound) h) fun t ht => hy p t ht) hw
    fun t ht => hk b u t ht hw

theorem blockHead_yields (b : Nat) {s0 s : State} (h : Tracks p s0 s) :
    Yields p (blockHead b s) (State.record .wdgService (writeBlk b s0)) :=
  yields_bind (act_yields (writeBlk_op b) h) fun _ ht => wdgService_yields ht

theorem within_blockHead (b : Nat) (s : State) : Within s (State.record .wdgService (writeBlk b s)) :=
  ⟨⟨[.wdgService], rfl, by simp⟩, rfl, rfl, rfl, id⟩

theorem readLoop_reaches (n b : Nat) {s0 s : State} (h : Tracks p s0 s) (ha : p.ack = .asserted) :
    Reaches p (readLoop n b s) s0 := by
  induction n generalizing b s s0 with
  | zero => exact sendSuccess_reaches h
  | succ n ih =>
    refine reaches_bind (blockHead_yields b h) (within_blockHead b s0) fun t1 h1 => ?_
    refine retry_reaches (collRead_attempt b) h1 fun ok u t hu _ => ?_
    cases ok
    · exact raiseError_reaches _ hu
    · refine reaches_bind (send_yields blockSize .readLoop hu ha) (within_sent _ _) fun v hv => ?_
      exact reaches_bind (act_yields (writeCnt_op n) hv) (within_writeCnt n _) fun w hw => ih (b + 1) hw

theorem receive_reaches (n : Nat) {g : State → Flow State} {s0 s : State} (h : Tracks p s0 s)
    (hd : s0.dOut = .released) (ha : p.ack = .asserted)
    (hg : ∀ u t, Tracks p u t → Within s0 u → Reaches p (g t) u) : Reaches p ((receive n s).bind g) s0 := by
  obtain ⟨l, _, hy⟩ := receive_yields n h hd ha
  have hw : Within s0 (stored l s0) :=
    ⟨⟨recvTrace s0.cfg l, rfl, by simp [recvTrace, recvByteTrace]⟩, rfl, rfl, rfl, fun _ => rfl⟩
  exact reaches_bind hy hw fun t ht => hg _ t ht hw

theorem storeBlock_reaches {rest : State → Flow State} (b n : Nat) {s0 s : State} (h : Tracks p s0 s)
    (hr : ∀ u t, Tracks p u t → Within s0 u → Reaches p (rest t) u) :
    Reaches p (storeBlock rest b n s) s0 := by
  refine retry_reaches (collWrite_attempt b) h fun ok u t hu hw => ?_
  cases ok
  · exact raiseError_reaches _ hu
  · have hc := within_writeCnt n u
    exact reaches_bind (act_yields (writeCnt_op n) hu) hc fun v hv => hr _ v hv (within_trans hw hc)

theorem writeLoop_reaches (n b : Nat) {s0 s : State} (h : Tracks p s0 s) (hd : s0.dOut = .released)
    (ha : p.ack = .asserted) : Reaches p (writeLoop n b s) s0 := by
  induction n generalizing b s s0 with
  | zero => exact sendSuccess_reaches h
  | succ n ih =>
    refine reaches_bind (blockHead_yields b h) (within_blockHead b s0) fun t1 h1 => ?_
    refine receive_reaches blockSize h1 hd ha fun u t hu hw => ?_
    refine storeBlock_reaches b n hu fun v w hv hw' => ?_
    exact ih (b + 1) hv (hw'.2.2.2.2 (hw.2.2.2.2 hd))

/-- The range check, and in range the loop (R290). -/
theorem blockCommand_reaches {loop : Nat → Nat → State → Flow State} (a : Args) {s0 s : State} (h : Tracks p s0 s)
    (hl : ∀ u t, Tracks p u t → Within s0 u → Reaches p (loop (countOperand a) (blockIndex a) t) u) :
    Reaches p (blockCommand loop a s) s0 := by
  unfold blockCommand
  split
  · exact reaches_bind (act_yields (writeCnt_op _) h) (within_writeCnt _ s0) fun t ht =>
      hl _ t ht (within_writeCnt _ s0)
  · exact raiseError_reaches _ h

@[simp] theorem prologued_cfg (s : State) : (prologued s).cfg = s.cfg := by unfold prologued; split <;> simp
@[simp] theorem prologued_cf (s : State) : (prologued s).cf = s.cf := by unfold prologued; split <;> simp
@[simp] theorem prologued_bi (s : State) : (prologued s).bi = s.bi := by unfold prologued; split <;> simp
@[simp] theorem prologued_buf (s : State) : (prologued s).buf = s.buf := by unfold prologued; split <;> simp
@[simp] theorem prologued_dOut (s : State) : (prologued s).dOut = s.dOut := by unfold prologued; split <;> simp

/-- The prologue of a command on a device that is ready after it goes on with the body (R231). -/
theorem prologue_goes_on (body : State → Flow State) {s0 s : State} (h : Tracks p s0 s)
    (hr : (prologued s0).dsReady = true) : ∃ t, prologue body s = body t ∧ Tracks p (prologued s0) t := by
  unfold prologued at hr ⊢
  split at hr
  · rename_i h0
    exact ⟨s, by simp [prologue, tracks_dsReady h, h0], by simpa [h0] using h⟩
  · rename_i h0
    obtain ⟨t, ht, hk⟩ := initDevice_yields h
    refine ⟨t, ?_, by simpa [h0] using hk⟩
    rw [reinit_dsReady] at hr
    simp [prologue, tracks_dsReady h, h0, ht, hr]

theorem prologue_reaches {body : State → Flow State} {s0 s : State} (h : Tracks p s0 s)
    (hb : ∀ u t, Tracks p u t → Within s0 u → Reaches p (body t) u) : Reaches p (prologue body s) s0 := by
  unfold prologue
  split
  · exact hb s0 s h (within_refl s0)
  · obtain ⟨tr, hs, _⟩ := reinit_step s0
    refine reaches_bindV (initDevice_yields h) (within_storage hs) fun t ht => ?_
    cases (nextReply s0).ok
    · exact raiseError_reaches _ ht
    · exact hb _ t ht (within_storage hs)

/-- Every command comes to its status. -/
theorem exec_reaches (i : Instr) {s0 s : State} (h : Tracks p s0 s) (hd : s0.dOut = .released)
    (ha : p.ack = .asserted) : ∃ f : Flow State, exec i s = f.next ∧ Reaches p f s0 := by
  have hforce : ∀ u t, Tracks p u t → Reaches p (forceInit t) u := fun u t ht =>
    initDevice_reaches ht fun b v hv => by
      cases b
      · exact raiseError_reaches _ hv
      · exact sendSuccess_reaches hv
  cases i with
  | testReady a => exact ⟨_, rfl, prologue_reaches h fun u t ht _ => hforce u t ht⟩
  | requestSense a =>
    exact ⟨_, rfl, prologue_reaches h fun u t ht _ => initDevice_reaches ht fun b v hv => respond_reaches _ _ hv ha⟩
  | formatDrive a => exact ⟨_, rfl, prologue_reaches h fun u t ht _ => hforce u t ht⟩
  | verifyTrack a => exact ⟨_, rfl, prologue_reaches h fun u t ht _ => hforce u t ht⟩
  | formatTrack a => exact ⟨_, rfl, prologue_reaches h fun u t ht _ => hforce u t ht⟩
  | readBlock a =>
    exact ⟨_, rfl, prologue_reaches h fun u t ht _ => blockCommand_reaches a ht fun v w hv _ =>
      readLoop_reaches _ _ hv ha⟩
  | writeBlock a =>
    exact ⟨_, rfl, prologue_reaches h fun u t ht hw => blockCommand_reaches a ht fun v w hv hw' =>
      writeLoop_reaches _ _ hv (hw'.2.2.2.2 (hw.2.2.2.2 hd)) ha⟩
  | seek a => exact ⟨_, rfl, prologue_reaches h fun u t ht _ => sendSuccess_reaches ht⟩
  | correction a => exact ⟨_, rfl, prologue_reaches h fun u t ht _ => sendSuccess_reaches ht⟩
  | inquiry a => exact ⟨_, rfl, prologue_reaches h fun u t ht _ => inquiry_reaches _ ht ha⟩
  | modeSelect a => exact ⟨_, rfl, prologue_reaches h fun u t ht _ => sendSuccess_reaches ht⟩
  | modeSense0 a => exact ⟨_, rfl, prologue_reaches h fun u t ht _ => respond_reaches _ _ ht ha⟩
  | modeSense4 a => exact ⟨_, rfl, prologue_reaches h fun u t ht _ => respond_reaches _ _ ht ha⟩
  | ship a => exact ⟨_, rfl, prologue_reaches h fun u t ht _ => sendSuccess_reaches ht⟩
  | unsupported o a => exact ⟨_, rfl, prologue_reaches h fun u t ht _ => raiseError_reaches _ ht⟩

/-- The end of a command cycle (R194): the status handshake leaves the command ended, and DeviceState, the buffer and
the collaborator as they were. -/
theorem sendStatus_ended (code : Byte) {s0 u0 u : State} (h : Tracks p u0 u) (hl : u0.cfg.statusWait = .level)
    (hc : p.cs = .deasserted) (h1 : u0.cfg = s0.cfg) (h2 : u0.cf = s0.cf) (h3 : u0.bi = s0.bi) :
    ∃ t, sendStatus code u = .done t ∧ Ended s0 t ∧ t.log = (statusTrace code).reverse ++ u0.log ∧
      t.replies = u0.replies ∧ t.draws = u0.draws ∧ t.dsReady = u0.dsReady ∧ t.dsCapacity = u0.dsCapacity ∧
      t.buf = u0.buf := by
  obtain ⟨t, ht, e, _⟩ := sendStatus_yields code h hl hc
  exact ⟨t, ht,
    ⟨(congrArg State.phase e :), (congrArg State.led e :), (congrArg State.guard e :), (congrArg State.dOut e :),
      (congrArg State.drqOut e :), (congrArg State.irqOut e :), (congrArg State.statusDone e :),
      ((congrArg State.cfg e).trans h1 :), ((congrArg State.cf e).trans h2 :), ((congrArg State.bi e).trans h3 :)⟩,
    (congrArg State.log e :), (congrArg State.replies e :), (congrArg State.draws e :), (congrArg State.dsReady e :),
    (congrArg State.dsCapacity e :), (congrArg State.buf e :)⟩

end Sys2Proof.Machine
end

