-- ==== Sys2Proof/Laws/Blocks.lean ====
section
/-! SUPPORT. What the blocks of a Read-block and of a Write-block do when the collaborator's answers are given (R209,
R291, R292): all of them succeed, or all of them fail. -/

namespace Sys2Proof.Machine

variable {p : Pins}

/-! ## One block access -/

theorem nextReply_cons {s : State} {r : CollReply} {rs : List CollReply} (h : s.replies = r :: rs) :
    nextReply s = r := by
  simp [nextReply, h]

/-- An access whose first attempt succeeds. -/
theorem retry_first {op : State → Flow (Bool × State)} {g : State → State} (hop : IsAttempt op g) {s0 s : State}
    (h : Tracks p s0 s) (hok : (nextReply s0).ok = true) :
    YieldsV p (retry op s) true (g (writeRem retryBound s0)) := by
  refine yields_bindV (act_yields (writeRem_op retryBound) h) fun t0 h0 => ?_
  refine yieldsV_bindV (hop.1 p _ t0 h0) fun t ht => ?_
  have : (nextReply (writeRem retryBound s0)).ok = true := hok
  simp only [this, if_true]
  exact yieldsV_done ht

/-- The engine after the three attempts and the one reinitialization of an access that every call of fails. -/
def fatal (g : State → State) (s : State) : State :=
  reinit (gapPassed 2 (g (gapPassed 3 (g (gapPassed 4 (g (writeRem retryBound s)))))))

/-- An access of which every call fails: three attempts and one reinitialization (R210). -/
theorem retry_fatal {op : State → Flow (Bool × State)} {g : State → State} (hop : IsAttempt op g)
    (hg : ∀ s, (g s).replies = s.replies.tail) {s0 s : State} (h : Tracks p s0 s) {x y z w : CollReply}
    {rest : List CollReply} (hr : s0.replies = x :: y :: z :: w :: rest) (hx : x.ok = false) (hy : y.ok = false)
    (hz : z.ok = false) (hw : w.ok = false) : YieldsV p (retry op s) false (fatal g s0) := by
  have r1 : (writeRem retryBound s0).replies = x :: y :: z :: w :: rest := hr
  refine yields_bindV (act_yields (writeRem_op retryBound) h) fun t0 h0 => ?_
  refine yieldsV_bindV (hop.1 p _ t0 h0) fun t ht => ?_
  simp only [nextReply_cons r1, hx, Bool.false_eq_true, if_false, show ¬(4 : ℕ) = 0 by decide]
  refine yields_bindV (act_yields (writeRem_op 4) ht) fun t ht => ?_
  refine yieldsV_bindV (retryGap_yields 4 ht) fun t ht => ?_
  simp only [show ¬(4 : ℕ) ≤ retryBound / 2 by decide, if_false, if_true] at ht ⊢
  have r2 : (gapPassed 4 (g (writeRem retryBound s0))).replies = y :: z :: w :: rest := by simp [hg, hr]
  refine yieldsV_bindV (hop.1 p _ _ ht) fun t ht => ?_
  simp only [nextReply_cons r2, hy, Bool.false_eq_true, if_false, show ¬(3 : ℕ) = 0 by decide]
  refine yields_bindV (act_yields (writeRem_op 3) ht) fun t ht => ?_
  refine yieldsV_bindV (retryGap_yields 3 ht) fun t ht => ?_
  simp only [show ¬(3 : ℕ) ≤ retryBound / 2 by decide, if_false, if_true] at ht ⊢
  have r3 : (gapPassed 3 (g (gapPassed 4 (g (writeRem retryBound s0))))).replies = z :: w :: rest := by
    simp [hg, hr]
  refine yieldsV_bindV (hop.1 p _ _ ht) fun t ht => ?_
  simp only [nextReply_cons r3, hz, Bool.false_eq_true, if_false, show ¬(2 : ℕ) = 0 by decide]
  have r4 : (g (gapPassed 3 (g (gapPassed 4 (g (writeRem retryBound s0)))))).replies = w :: rest := by
    simp [hg, hr]
  refine yields_bindV (act_yields (writeRem_op 2) ht) fun t ht => ?_
  refine yieldsV_bindV (retryGap_yields 2 ht) fun t ht => ?_
  simp only [show (2 : ℕ) ≤ retryBound / 2 by decide, if_true, nextReply_cons r4, hw, Bool.false_eq_true,
    if_false] at ht ⊢
  exact yieldsV_done ht

/-! ## The engine between two blocks -/

/-- What the loop of a block command leaves between two blocks, given what was recorded, the answers left and the
buffer. -/
structure Between (s u : State) (tr : List Event) (rest : List CollReply) (m : Memory) : Prop where
  log : u.log = tr.reverse ++ s.log
  replies : u.replies = rest
  buf : u.buf = m
  draws : u.draws = s.draws
  ready : u.dsReady = s.dsReady
  capacity : u.dsCapacity = s.dsCapacity
  cfg : u.cfg = s.cfg
  cf : u.cf = s.cf
  bi : u.bi = s.bi

theorem between_trans {s u v : State} {a b : List Event} {q r : List CollReply} {m n : Memory}
    (h : Between s u a q m) (k : Between u v b r n) : Between s v (a ++ b) r n where
  log := by rw [k.log, h.log]; simp
  replies := k.replies
  buf := k.buf
  draws := k.draws.trans h.draws
  ready := k.ready.trans h.ready
  capacity := k.capacity.trans h.capacity
  cfg := k.cfg.trans h.cfg
  cf := k.cf.trans h.cf
  bi := k.bi.trans h.bi

/-- One successful iteration of Read-block. -/
theorem readLoop_block (n b : Nat) {s0 s : State} (h : Tracks p s0 s) (ha : p.ack = .asserted) {r : CollReply}
    {rest : List CollReply} (hr : s0.replies = r :: rest) (hok : r.ok = true) :
    ∃ u0 u, readLoop (n + 1) b s = readLoop n (b + 1) u ∧ Tracks p u0 u ∧
      Between s0 u0 ([.wdgService, .collRead b true] ++ sendTrace s0.cfg r.data.toList) rest
        (Memory.writeBytes s0.buf 0 r.data.toList) := by
  obtain ⟨t1, e1, h1⟩ := blockHead_yields b h
  generalize hs1 : State.record .wdgService (writeBlk b s0) = s1 at h1
  have hr1 : s1.replies = r :: rest := by rw [← hs1]; exact hr
  obtain ⟨t2, e2, h2⟩ := retry_first (collRead_attempt b) h1 (by rw [nextReply_cons hr1]; exact hok)
  have hn : nextReply (writeRem retryBound s1) = r := nextReply_cons hr1
  obtain ⟨t3, e3, h3⟩ := send_yields blockSize .readLoop h2 ha
  obtain ⟨t4, e4, h4⟩ := act_yields (writeCnt_op n) h3
  refine ⟨_, t4, ?_, h4, ?_⟩
  · rw [readLoop, e1, bind_done, readBlock, e2, bind_done]
    simp only [if_true, e3, bind_done, e4]
  · have hb := bytes_writeBytes s0.buf r.data.toList blockSize (by simp [blockSize])
    rw [List.take_of_length_le (by simp [blockSize])] at hb
    subst hs1
    constructor <;> simp [hn, hok, hb] <;> simp [hr]

/-- The first blocks of a Read-block, all answered with success. -/
theorem readLoop_blocks (rs rest : List CollReply) (n b : Nat) {s0 s : State} (h : Tracks p s0 s)
    (ha : p.ack = .asserted) (hr : s0.replies = rs ++ rest) (hok : ∀ r ∈ rs, r.ok = true) :
    ∃ u0 u, readLoop (rs.length + n) b s = readLoop n (b + rs.length) u ∧ Tracks p u0 u ∧
      Between s0 u0 (readTrace s0.cfg b rs) rest
        (rs.foldl (fun m r => Memory.writeBytes m 0 r.data.toList) s0.buf) := by
  induction rs generalizing b s s0 with
  | nil => exact ⟨s0, s, by simp, h, ⟨rfl, by simpa using hr, rfl, rfl, rfl, rfl, rfl, rfl, rfl⟩⟩
  | cons r rs ih =>
    obtain ⟨u0, u, e1, h1, k1⟩ := readLoop_block (rs.length + n) b h ha (r := r) hr (hok r (by simp))
    obtain ⟨v0, v, e2, h2, k2⟩ := ih (b + 1) h1 k1.replies fun r hr => hok r (by simp [hr])
    refine ⟨v0, v, ?_, h2, ?_⟩
    · rw [show (r :: rs).length + n = rs.length + n + 1 by simp; omega, e1, e2]
      congr 1
      simp
      omega
    · rw [k1.cfg, k1.buf] at k2
      exact between_trans k1 k2

/-- One successful iteration of Write-block: the bytes it received are the bytes it writes. -/
theorem writeLoop_block (n b : Nat) {s0 s : State} (h : Tracks p s0 s) (ha : p.ack = .asserted)
    (hd : s0.dOut = .released) {r : CollReply} {rest : List CollReply} (hr : s0.replies = r :: rest)
    (hok : r.ok = true) :
    ∃ (u0 u : State) (d : List Byte), writeLoop (n + 1) b s = writeLoop n (b + 1) u ∧ Tracks p u0 u ∧
      u0.dOut = .released ∧ d.length = 512 ∧
      Between s0 u0 ([.wdgService] ++ recvTrace s0.cfg d ++ [.collWrite b d true]) rest
        (Memory.writeBytes s0.buf 0 d) := by
  obtain ⟨t1, e1, h1⟩ := blockHead_yields b h
  generalize hs1 : State.record .wdgService (writeBlk b s0) = s1 at h1
  obtain ⟨d, hl, t2, e2, h2⟩ := receive_yields blockSize h1 (by rw [← hs1]; exact hd) ha
  generalize hs2 : stored d s1 = s2 at h2
  have hr2 : s2.replies = r :: rest := by rw [← hs2, ← hs1]; exact hr
  obtain ⟨t3, e3, h3⟩ := retry_first (collWrite_attempt b) h2 (by rw [nextReply_cons hr2]; exact hok)
  have hn : nextReply (writeRem retryBound s2) = r := nextReply_cons hr2
  obtain ⟨t4, e4, h4⟩ := act_yields (writeCnt_op n) h3
  refine ⟨_, t4, d, ?_, h4, ?_, hl, ?_⟩
  · rw [writeLoop, e1, bind_done, e2, bind_done, storeBlock, writeBlock, e3, bind_done]
    simp only [if_true, e4, bind_done]
  · rw [← hs2]; rfl
  · have hb := bytes_writeBytes s0.buf d blockSize (by rw [hl])
    rw [List.take_of_length_le (by rw [hl])] at hb
    subst hs2 hs1
    constructor <;> simp [hn, hok, hb] <;> simp [hr]

/-- The first blocks of a Write-block, all answered with success. -/
theorem writeLoop_blocks (rs rest : List CollReply) (n b : Nat) {s0 s : State} (h : Tracks p s0 s)
    (ha : p.ack = .asserted) (hd : s0.dOut = .released) (hr : s0.replies = rs ++ rest)
    (hok : ∀ r ∈ rs, r.ok = true) :
    ∃ (u0 u : State) (ds : List (List Byte)), writeLoop (rs.length + n) b s = writeLoop n (b + rs.length) u ∧
      Tracks p u0 u ∧ u0.dOut = .released ∧ ds.length = rs.length ∧ (∀ d ∈ ds, d.length = 512) ∧
      Between s0 u0 (writeTrace s0.cfg b ds) rest (ds.foldl (fun m d => Memory.writeBytes m 0 d) s0.buf) := by
  induction rs generalizing b s s0 with
  | nil =>
    exact ⟨s0, s, [], by simp, h, hd, rfl, by simp, ⟨rfl, by simpa using hr, rfl, rfl, rfl, rfl, rfl, rfl, rfl⟩⟩
  | cons r rs ih =>
    obtain ⟨u0, u, d, e1, h1, d1, l1, k1⟩ := writeLoop_block (rs.length + n) b h ha hd (r := r) hr (hok r (by simp))
    obtain ⟨v0, v, ds, e2, h2, d2, l2, l2', k2⟩ := ih (b + 1) h1 d1 k1.replies fun r hr => hok r (by simp [hr])
    refine ⟨v0, v, d :: ds, ?_, h2, d2, by simp [l2], by simpa using ⟨l1, l2'⟩, ?_⟩
    · rw [show (r :: rs).length + n = rs.length + n + 1 by simp; omega, e1, e2]
      congr 1
      simp
      omega
    · rw [k1.cfg, k1.buf] at k2
      exact between_trans k1 k2

end Sys2Proof.Machine
end

