-- ==== Sys2Proof/Laws/Decode.lean ====
section
/-! SUPPORT. The laws of the encoding: the fields, the decoder's cases, and how decoder and encoder fit. -/

namespace Sys2Proof

/-- The block address of a frame as a number (R64). -/
theorem lba_toNat (f : Frame) : f.lba.toNat = f.b1.toNat * 65536 + f.b2.toNat * 256 + f.b3.toNat := by
  simp only [Frame.lba, BitVec.toNat_append]
  have h1 := f.b1.isLt; have h2 := f.b2.isLt; have h3 := f.b3.isLt
  rw [← Nat.shiftLeft_add_eq_or_of_lt (by omega), ← Nat.shiftLeft_add_eq_or_of_lt (by omega)]
  simp only [Nat.shiftLeft_eq]; omega

/-- The operands survive encoding. -/
theorem encodeFrame_args (c : Config) (i : Instr) : (encodeFrame c i).args = i.args := by
  cases h : i.args with | mk l n r =>
  simp only [Frame.args, Frame.lba, Frame.len, encodeFrame, h]
  congr 1
  apply BitVec.eq_of_toNat_eq
  have := lba_toNat ⟨0, l.extractLsb' 16 8, l.extractLsb' 8 8, l.extractLsb' 0 8, 0, 0⟩
  simp only [Frame.lba] at this
  rw [this]
  simp [BitVec.extractLsb'_toNat, Nat.shiftRight_eq_div_pow]
  have := l.isLt
  omega

/-- The opcode survives encoding. -/
theorem encodeFrame_opc (c : Config) (i : Instr) : (encodeFrame c i).opc = i.opcode c := by
  simp only [Frame.opc, opcField, encodeFrame]
  apply BitVec.eq_of_toNat_eq
  have := (i.opcode c).isLt
  simp
  omega

/-- The sub-page is one of the operand bytes (R96). -/
theorem frame_page (c : Config) (f : Frame) (h : 1 ≤ c.msPageByte.val ∧ c.msPageByte.val ≤ 3) :
    f.page c = f.args.page c := by
  unfold Frame.page Args.page
  obtain ⟨h1, h2⟩ := h
  generalize c.msPageByte = k at *
  have : k = 1 ∨ k = 2 ∨ k = 3 := by omega
  rcases this with rfl | rfl | rfl <;>
  · simp only [Frame.get, Args.byte, Frame.args, Frame.lba]
    apply BitVec.eq_of_toNat_eq
    have := lba_toNat f
    simp only [Frame.lba] at this
    have h1 := f.b1.isLt; have h2 := f.b2.isLt; have h3 := f.b3.isLt
    simp [BitVec.extractLsb'_toNat, Nat.shiftRight_eq_div_pow] at this ⊢
    omega

/-- What a good configuration is. -/
theorem ok_iff (c : Config) :
    c.ok = true ↔ c.opc.assigned.Nodup ∧ (1 ≤ c.msPageByte.val ∧ c.msPageByte.val ≤ 3) ∧ c.ms4Heads ≠ 0 := by
  simp only [Config.ok, Bool.and_eq_true, decide_eq_true_eq]
  tauto

/-- The frame registers of a well-formed command decode to it. -/
theorem decodeFrame_encodeFrame (c : Config) (i : Instr) (hc : c.ok = true) (hw : i.wf c = true) :
    decodeFrame c (encodeFrame c i) = i := by
  obtain ⟨hn, hp, _⟩ := (ok_iff c).1 hc
  unfold decodeFrame
  rw [encodeFrame_opc, encodeFrame_args, frame_page c _ hp, encodeFrame_args]
  simp only [OpcodeMap.assigned, List.nodup_cons, List.mem_cons, List.not_mem_nil, not_or, or_false] at hn
  have h04 : page0 ≠ page4 := by decide
  cases i <;> simp only [Instr.opcode, Instr.args, Instr.wf, OpcodeMap.assigned, decide_eq_true_eq,
    Bool.or_eq_true, Bool.and_eq_true, Bool.not_eq_true', decide_eq_false_iff_not, List.mem_cons,
    List.not_mem_nil, not_or, or_false] at hw ⊢ <;> grind

/-- The ID field of the first wire byte. -/
theorem idField_wire (d : DeviceId) (o : Opc) : idField (d ++ o : BitVec (3+5)) = d := by
  apply BitVec.eq_of_toNat_eq
  have := d.isLt; have ho := o.isLt
  simp only [idField, BitVec.extractLsb'_toNat, BitVec.toNat_append]
  rw [← Nat.shiftLeft_add_eq_or_of_lt ho]
  simp only [Nat.shiftLeft_eq, Nat.shiftRight_eq_div_pow]; omega

/-- The opcode field of the first wire byte. -/
theorem opcField_wire (d : DeviceId) (o : Opc) : opcField (d ++ o : BitVec (3+5)) = o := by
  apply BitVec.eq_of_toNat_eq
  have := d.isLt; have ho := o.isLt
  simp only [opcField, BitVec.extractLsb'_toNat, BitVec.toNat_append]
  rw [← Nat.shiftLeft_add_eq_or_of_lt ho]
  simp only [Nat.shiftLeft_eq, Nat.shiftRight_zero]; omega

/-- A first wire byte is its two fields. -/
theorem wire_eta (b : Byte) : (idField b ++ opcField b : BitVec (3+5)) = b := by
  apply BitVec.eq_of_toNat_eq
  have := b.isLt
  simp only [BitVec.toNat_append]
  rw [← Nat.shiftLeft_add_eq_or_of_lt (BitVec.isLt _)]
  simp [idField, opcField, BitVec.extractLsb'_toNat, Nat.shiftLeft_eq, Nat.shiftRight_eq_div_pow]
  omega

theorem ite_case {α : Type} (P : α → Prop) {c : Prop} [Decidable c] {a b : α} (h1 : c → P a) (h2 : ¬c → P b) :
    P (if c then a else b) := by
  split
  · exact h1 ‹_›
  · exact h2 ‹_›

/-- Every way a frame decodes (R98, R99). -/
theorem decodeFrame_cases (c : Config) (f : Frame) (P : Instr → Prop)
    (h0 : f.opc = c.opc.testReady → P (.testReady f.args))
    (h1 : f.opc = c.opc.requestSense → P (.requestSense f.args))
    (h2 : f.opc = c.opc.formatDrive → P (.formatDrive f.args))
    (h3 : f.opc = c.opc.verifyTrack → P (.verifyTrack f.args))
    (h4 : f.opc = c.opc.formatTrack → P (.formatTrack f.args))
    (h5 : f.opc = c.opc.readBlock → P (.readBlock f.args))
    (h6 : f.opc = c.opc.writeBlock → P (.writeBlock f.args))
    (h7 : f.opc = c.opc.seek → P (.seek f.args))
    (h8 : f.opc = c.opc.correction → P (.correction f.args))
    (h9 : f.opc = c.opc.inquiry → P (.inquiry f.args))
    (h10 : f.opc = c.opc.modeSelect → P (.modeSelect f.args))
    (h11 : f.opc = c.opc.modeSense → f.page c = page0 → P (.modeSense0 f.args))
    (h12 : f.opc = c.opc.modeSense → f.page c = page4 → P (.modeSense4 f.args))
    (h13 : f.opc = c.opc.modeSense → f.page c ≠ page0 → f.page c ≠ page4 → P (.unsupported f.opc f.args))
    (h14 : f.opc = c.opc.ship → P (.ship f.args))
    (h15 : f.opc ∉ c.opc.assigned → P (.unsupported f.opc f.args)) : P (decodeFrame c f) := by
  unfold decodeFrame
  refine ite_case P h0 fun n0 => ite_case P h1 fun n1 => ite_case P h2 fun n2 => ite_case P h3 fun n3 =>
    ite_case P h4 fun n4 => ite_case P h5 fun n5 => ite_case P h6 fun n6 => ite_case P h7 fun n7 =>
    ite_case P h8 fun n8 => ite_case P h9 fun n9 => ite_case P h10 fun n10 =>
    ite_case P (fun y => ite_case P (h11 y) fun m0 => ite_case P (h12 y) (h13 y m0)) fun n11 =>
    ite_case P h14 fun n12 => h15 ?_
  simp [OpcodeMap.assigned, *]

/-- A decoded command has the opcode of its frame. -/
theorem decodeFrame_opcode (c : Config) (f : Frame) : (decodeFrame c f).opcode c = f.opc := by
  apply decodeFrame_cases c f (fun i => i.opcode c = f.opc) <;> intros <;> first | rfl | (symm; assumption)

/-- A decoded command has the operands of its frame. -/
theorem decodeFrame_args (c : Config) (f : Frame) : (decodeFrame c f).args = f.args := by
  apply decodeFrame_cases c f (fun i => i.args = f.args) <;> intros <;> rfl

/-- The bytes of the block address. -/
theorem args_bytes (f : Frame) :
    f.lba.extractLsb' 16 8 = f.b1 ∧ f.lba.extractLsb' 8 8 = f.b2 ∧ f.lba.extractLsb' 0 8 = f.b3 := by
  have := lba_toNat f
  have h1 := f.b1.isLt; have h2 := f.b2.isLt; have h3 := f.b3.isLt
  refine ⟨?_, ?_, ?_⟩ <;> apply BitVec.eq_of_toNat_eq <;>
    simp only [BitVec.extractLsb'_toNat, Nat.shiftRight_eq_div_pow] <;> omega

/-- What a frame decodes to is well-formed. -/
theorem decodeFrame_wf (c : Config) (f : Frame) (hp : 1 ≤ c.msPageByte.val ∧ c.msPageByte.val ≤ 3) :
    (decodeFrame c f).wf c = true := by
  apply decodeFrame_cases c f (fun i => i.wf c = true) <;> intros <;>
    first | rfl | simp_all [Instr.wf, frame_page c f hp]

end Sys2Proof
end

