-- ==== Sys2Proof/Laws/Frame.lean ====
section
/-! SUPPORT. What the operations leave alone, when no watchdog reset is scheduled, whether or not their waits end: one
lemma for each. -/

namespace Sys2Proof.Machine

/-- An atomic step finds the peer's lines as they are or as they have moved, and nothing else has changed. -/
theorem tick_quiet {s : State} (h : NoReset s) :
    ∃ p e, tick s = .done { s with pins := p, env := e } ∧ EnvEvent.watchdog ∉ e := by
  unfold tick
  split
  · next he => exact ⟨s.pins, s.env, rfl, h⟩
  · next q es he =>
    refine ⟨q, es, rfl, fun hm => h ?_⟩
    rw [he]
    exact List.mem_cons_of_mem _ hm
  · next es he => exact absurd (by rw [he]; simp) h

theorem act_quiet {f : State → State} {s : State} (h : NoReset s) :
    ∃ p e, act f s = .done (f { s with pins := p, env := e }) ∧ EnvEvent.watchdog ∉ e := by
  obtain ⟨p, e, ht, hn⟩ := tick_quiet h
  exact ⟨p, e, by rw [act, ht, bind_done], hn⟩

theorem spinOver_quiet (w : WaitKind) (ph : Phase) (es : List EnvEvent) {s : State} (h : EnvEvent.watchdog ∉ es) :
    (∃ p e, spinOver w ph s es = .done (State.record (.waited w) { s with pins := p, env := e }) ∧
      EnvEvent.watchdog ∉ e) ∨
    (∃ p, spinOver w ph s es = .halt { s with pins := p, env := [], phase := ph } ∧ w.holds p = false) := by
  induction es generalizing s with
  | nil =>
    unfold spinOver
    split
    · exact .inl ⟨s.pins, [], rfl, by simp⟩
    · next hw => exact .inr ⟨s.pins, rfl, by simpa using hw⟩
  | cons e es ih =>
    have h' : EnvEvent.watchdog ∉ es := fun hm => h (List.mem_cons_of_mem _ hm)
    cases e with
    | peer q =>
      unfold spinOver
      split
      · exact .inl ⟨q, es, rfl, h'⟩
      · exact ih (s := { s with pins := q }) h'
    | watchdog => simp at h

/-- A wait ends at some lines, or the engine is left in it. -/
theorem spinUntil_quiet (w : WaitKind) (ph : Phase) {s : State} (h : NoReset s) :
    (∃ p e, spinUntil w ph s = .done (State.record (.waited w) { s with pins := p, env := e }) ∧
      EnvEvent.watchdog ∉ e) ∨
    (∃ p, spinUntil w ph s = .halt { s with pins := p, env := [], phase := ph } ∧ w.holds p = false) :=
  spinOver_quiet w ph s.env h

/-! ## The bus -/

/-- `t` is `s` after steps on the bus: only the position, the flags, the drivers, `STATUS_DONE`, the environment and the
record may differ, and no watchdog reset is scheduled. -/
def BusStep (s t : State) : Prop :=
  t = { s with
    phase := t.phase, led := t.led, guard := t.guard, dOut := t.dOut, drqOut := t.drqOut, irqOut := t.irqOut
    statusDone := t.statusDone, pins := t.pins, env := t.env, log := t.log } ∧ NoReset t

theorem busStep_trans {s t u : State} (h : BusStep s t) (k : BusStep t u) : BusStep s u := by
  refine ⟨?_, k.2⟩
  have h1 := h.1
  have k1 := k.1
  rw [h1] at k1
  exact k1

/-- A state left in a wait, with the guard held. -/
abbrev Stuck (s t : State) : Prop := BusStep s t ∧ Hung t ∧ t.guard = true

theorem sat_busStep {α : Type} {f : Flow α} {s t : State} {P : α → Prop} (h : BusStep s t) (hf : f.Sat P (Stuck t)) :
    f.Sat P (Stuck s) :=
  sat_mono hf (fun _ h => h) fun _ k => ⟨busStep_trans h k.1, k.2⟩

/-- A sequence of steps on the bus, ending in a state with property `R` unless it is left in a wait. -/
abbrev OnBus (s : State) (R : State → Prop) (f : Flow State) : Prop := f.Sat (fun t => BusStep s t ∧ R t) (Stuck s)

theorem onBus_bind {s : State} {R Q : State → Prop} {f : Flow State} {g : State → Flow State} (hf : OnBus s R f)
    (hg : ∀ t, NoReset t → R t → OnBus t Q (g t)) : OnBus s Q (f.bind g) := by
  refine sat_bind hf fun t ht => sat_busStep ht.1 (sat_mono (hg t ht.1.2 ht.2) (fun u hu => ?_) fun _ k => k)
  exact ⟨busStep_trans ht.1 hu.1, hu.2⟩

/-- One atomic step on the bus. -/
theorem act_bus {f : State → State} {R : State → Prop} {s : State} (h : NoReset s)
    (hf : ∀ p e, EnvEvent.watchdog ∉ e → BusStep s (f { s with pins := p, env := e }) ∧
      R (f { s with pins := p, env := e })) : OnBus s R (act f s) := by
  obtain ⟨p, e, ht, hn⟩ := act_quiet (f := f) h
  rw [ht]
  exact hf p e hn

theorem spin_bus (w : WaitKind) (ph : Phase) (hp : ph.wait = some w) {s : State} (h : NoReset s)
    (hg : s.guard = true) : OnBus s (fun t => t.guard = true) (spinUntil w ph s) := by
  rcases spinUntil_quiet w ph h with ⟨p, e, hd, hn⟩ | ⟨p, hd, hw⟩ <;> rw [hd]
  · exact ⟨⟨rfl, hn⟩, hg⟩
  · exact ⟨⟨rfl, by simp [NoReset]⟩, ⟨rfl, w, hp, hw⟩, hg⟩

theorem statusReturn_bus {s : State} (h : NoReset s) : OnBus s (fun t => t.phase = .idle) (statusReturn s) := by
  refine onBus_bind (R := fun _ => True) (act_bus h fun _ _ hn => ⟨⟨rfl, hn⟩, trivial⟩) fun t ht _ => ?_
  refine onBus_bind (R := fun _ => True) (act_bus ht fun _ _ hn => ⟨⟨rfl, hn⟩, trivial⟩) fun u hu _ => ?_
  refine onBus_bind (R := fun _ => True) (act_bus hu fun _ _ hn => ⟨⟨rfl, hn⟩, trivial⟩) fun v hv _ => ?_
  exact act_bus hv fun _ _ hn => ⟨⟨rfl, hn⟩, rfl⟩

theorem statusWait_bus {s : State} (h : NoReset s) (hg : s.guard = true) :
    OnBus s (fun t => t.guard = true) (statusWait s) := by
  unfold statusWait
  split
  · exact spin_bus _ _ rfl h hg
  · exact onBus_bind (spin_bus _ _ rfl h hg) fun t ht k => spin_bus _ _ rfl ht k

/-- A status handshake changes nothing but the bus, and ends in `Idle` or is left in its wait (R190). -/
theorem sendStatus_bus (code : Byte) {s : State} (h : NoReset s) :
    OnBus s (fun t => t.phase = .idle) (sendStatus code s) := by
  refine onBus_bind (R := fun _ => True) (act_bus h fun _ _ hn => ⟨⟨rfl, hn⟩, trivial⟩) fun t0 h0 _ => ?_
  refine onBus_bind (R := fun _ => True) (act_bus h0 fun _ _ hn => ⟨⟨rfl, hn⟩, trivial⟩) fun t1 h1 _ => ?_
  refine onBus_bind (R := fun t => t.guard = true) (act_bus h1 fun _ _ hn => ⟨⟨rfl, hn⟩, rfl⟩) fun t2 h2 g2 => ?_
  refine onBus_bind (R := fun t => t.guard = true) (act_bus h2 fun _ _ hn => ⟨⟨rfl, hn⟩, g2⟩) fun t3 h3 g3 => ?_
  refine onBus_bind (R := fun t => t.guard = true) (act_bus h3 fun _ _ hn => ⟨⟨rfl, hn⟩, g3⟩) fun t4 h4 g4 => ?_
  exact onBus_bind (statusWait_bus h4 g4) fun t5 h5 _ => statusReturn_bus h5

theorem sendSuccess_bus {s : State} (h : NoReset s) : OnBus s (fun t => t.phase = .idle) (sendSuccess s) :=
  sendStatus_bus statusOk h

theorem raiseError_bus (k : ErrorKind) {s : State} (h : NoReset s) :
    OnBus s (fun t => t.phase = .idle) (raiseError k s) := by
  have hb : BusStep s (State.record (.raised k) s) := ⟨rfl, h⟩
  exact sat_busStep hb (sat_mono (sendStatus_bus statusErr hb.2) (fun u hu => ⟨busStep_trans hb hu.1, hu.2⟩)
    fun _ k => k)

theorem endTransfer_bus {s : State} (h : NoReset s) : OnBus s (fun t => t.dOut = .released ∧ t.drqOut = .released) (endTransfer s) := by
  refine onBus_bind (R := fun t => t.dOut = .released ∧ t.drqOut = .released)
    (act_bus h fun _ _ hn => ⟨⟨rfl, hn⟩, rfl, rfl⟩) fun t1 h1 r => ?_
  exact act_bus h1 fun _ _ hn => ⟨⟨rfl, hn⟩, r⟩

theorem sendFrom_bus (n : Nat) (next : AfterSend) (k i : Nat) {s : State} (h : NoReset s) (hg : s.guard = true) :
    OnBus s (fun t => t.dOut = .released ∧ t.drqOut = .released) (sendFrom n next k i s) := by
  induction k generalizing i s with
  | zero => exact endTransfer_bus h
  | succ k ih =>
    refine onBus_bind (R := fun t => t.guard = true) (act_bus h fun _ _ hn => ⟨⟨rfl, hn⟩, hg⟩) fun t1 h1 g1 => ?_
    refine onBus_bind (R := fun t => t.guard = true) (act_bus h1 fun _ _ hn => ⟨⟨rfl, hn⟩, g1⟩) fun t2 h2 g2 => ?_
    exact onBus_bind (spin_bus _ _ rfl h2 g2) fun t3 h3 g3 => ih (i + 1) h3 g3

/-- A `Send` changes nothing but the bus (R141). -/
theorem send_bus (n : Nat) (next : AfterSend) {s : State} (h : NoReset s) :
    OnBus s (fun t => t.dOut = .released ∧ t.drqOut = .released) (send n next s) :=
  onBus_bind (R := fun t => t.guard = true) (act_bus h fun _ _ hn => ⟨⟨rfl, hn⟩, rfl⟩) fun _ h1 g1 =>
    sendFrom_bus n next n 0 h1 g1

/-! ## Storage -/

/-- An initialization, whatever its answers, comes to its end; on a failed one the capacity stays. -/
theorem initDevice_quiet {s : State} (h : NoReset s) :
    ∃ t, initDevice s = .done ((nextReply s).ok, t) ∧ NoReset t ∧ t.cfg = s.cfg ∧ t.cf = s.cf ∧ t.bi = s.bi ∧
      t.blk = s.blk ∧ t.cnt = s.cnt ∧ t.rem = s.rem ∧ t.buf = s.buf ∧ t.dsReady = (nextReply s).ok ∧
      ((nextReply s).ok = false → t.dsCapacity = s.dsCapacity) ∧ t.dOut = s.dOut := by
  obtain ⟨t, e, k, hn, _⟩ := initDevice_yields (tracks_self h)
  refine ⟨t, e, hn, ?_, ?_, ?_, ?_, ?_, ?_, ?_, ?_, ?_, ?_⟩
  · exact Eq.trans (congrArg State.cfg k :) (reinit_cfg s)
  · exact Eq.trans (congrArg State.cf k :) (reinit_cf s)
  · exact Eq.trans (congrArg State.bi k :) (reinit_bi s)
  · exact Eq.trans (congrArg State.blk k :) (reinit_blk s)
  · exact Eq.trans (congrArg State.cnt k :) (reinit_cnt s)
  · exact Eq.trans (congrArg State.rem k :) (reinit_rem s)
  · exact Eq.trans (congrArg State.buf k :) (reinit_buf s)
  · exact Eq.trans (congrArg State.dsReady k :) (reinit_dsReady s)
  · intro hf
    refine Eq.trans (congrArg State.dsCapacity k :) ?_
    show (reinit s).dsCapacity = _
    simp [reinit, hf]
  · exact Eq.trans (congrArg State.dOut k :) (reinit_dOut s)

/-! ## The blocks -/

/-- `t` is `s` after steps of a block command: the configuration, the frame registers and `BI` are as they were, every
buffer byte outside the block is, and no watchdog reset is scheduled. -/
def BlockStep (s t : State) : Prop :=
  t.cfg = s.cfg ∧ t.cf = s.cf ∧ t.bi = s.bi ∧ (∀ k, blockSize ≤ k → Memory.read t.buf k = Memory.read s.buf k) ∧
    NoReset t

theorem blockStep_refl {s : State} (h : NoReset s) : BlockStep s s := ⟨rfl, rfl, rfl, fun _ _ => rfl, h⟩

theorem blockStep_trans {s t u : State} (h : BlockStep s t) (k : BlockStep t u) : BlockStep s u :=
  ⟨k.1.trans h.1, k.2.1.trans h.2.1, k.2.2.1.trans h.2.2.1,
    fun j hj => (k.2.2.2.1 j hj).trans (h.2.2.2.1 j hj), k.2.2.2.2⟩

theorem blockStep_bus {s t : State} (h : BusStep s t) : BlockStep s t := by
  refine ⟨?_, ?_, ?_, ?_, h.2⟩ <;> rw [h.1]
  intro _ _
  rfl

/-- A sequence of steps of a block command. -/
abbrev OnBlock (s : State) (R : State → Prop) (f : Flow State) : Prop :=
  f.Sat (fun t => BlockStep s t ∧ R t) (fun t => BlockStep s t ∧ Hung t ∧ t.guard = true)

theorem onBlock_of_bus {s : State} {R : State → Prop} {f : Flow State} (h : OnBus s R f) : OnBlock s R f :=
  sat_mono h (fun _ k => ⟨blockStep_bus k.1, k.2⟩) fun _ k => ⟨blockStep_bus k.1, k.2⟩

theorem onBlock_after {s t : State} {R : State → Prop} {f : Flow State} (h : BlockStep s t) (hf : OnBlock t R f) :
    OnBlock s R f :=
  sat_mono hf (fun _ k => ⟨blockStep_trans h k.1, k.2⟩) fun _ k => ⟨blockStep_trans h k.1, k.2⟩

theorem onBlock_bind {s : State} {R Q : State → Prop} {f : Flow State} {g : State → Flow State} (hf : OnBlock s R f)
    (hg : ∀ t, NoReset t → R t → OnBlock t Q (g t)) : OnBlock s Q (f.bind g) :=
  sat_bind hf fun t ht => onBlock_after ht.1 (hg t ht.1.2.2.2.2 ht.2)

/-- One atomic step of a block command. -/
theorem act_block {f : State → State} (hf : ∀ s, NoReset s → BlockStep s (f s)) {s : State} (h : NoReset s) :
    ∃ t, act f s = .done t ∧ BlockStep s t := by
  obtain ⟨p, e, ht, hn⟩ := act_quiet (f := f) h
  exact ⟨_, ht, blockStep_trans (t := { s with pins := p, env := e }) ⟨rfl, rfl, rfl, fun _ _ => rfl, hn⟩ (hf _ hn)⟩

theorem writeRem_block (n : Nat) {s : State} (h : NoReset s) : BlockStep s (writeRem n s) :=
  ⟨rfl, rfl, rfl, fun _ _ => rfl, h⟩

theorem writeCnt_block (n : Nat) {s : State} (h : NoReset s) : BlockStep s (writeCnt n s) :=
  ⟨rfl, rfl, rfl, fun _ _ => rfl, h⟩

theorem blockHead_block (b : Nat) {s : State} (h : NoReset s) : ∃ t, blockHead b s = .done t ∧ BlockStep s t := by
  obtain ⟨t, e, k⟩ := act_block (f := writeBlk b) (fun _ hs => ⟨rfl, rfl, rfl, fun _ _ => rfl, hs⟩) h
  obtain ⟨u, e', k'⟩ := act_block (f := State.record .wdgService) (fun _ hs => ⟨rfl, rfl, rfl, fun _ _ => rfl, hs⟩)
    k.2.2.2.2
  exact ⟨u, by rw [blockHead, e, bind_done, wdgService, e'], blockStep_trans k k'⟩

theorem storeByte_block (i : Nat) (v : Byte) (hi : i < blockSize) {s : State} (h : NoReset s) :
    BlockStep s (storeByte i v s) :=
  ⟨rfl, rfl, rfl, fun k hk => read_write_other _ _ _ _ (by omega), h⟩

theorem sampleData_block {s : State} (h : NoReset s) :
    ∃ v t, sampleData s = .done (v, t) ∧ BlockStep s t ∧ t.guard = s.guard := by
  obtain ⟨p, e, ht, hn⟩ := tick_quiet h
  unfold sampleData
  rw [ht, bind_done]
  cases hd : s.dOut with
  | released =>
    simp only [dataLines]
    exact ⟨_, _, rfl, ⟨rfl, rfl, rfl, fun _ _ => rfl, hn⟩, rfl⟩
  | drive v =>
    simp only [dataLines]
    exact ⟨_, _, rfl, ⟨rfl, rfl, rfl, fun _ _ => rfl, hn⟩, rfl⟩

theorem recvFrom_block (k i : Nat) (hi : i + k ≤ blockSize) {s : State} (h : NoReset s) (hg : s.guard = true) :
    OnBlock s (fun t => t.dOut = .released ∧ t.drqOut = .released) (recvFrom k i s) := by
  induction k generalizing i s with
  | zero => exact onBlock_of_bus (endTransfer_bus h)
  | succ k ih =>
    refine onBlock_bind (R := fun t => t.guard = true)
      (onBlock_of_bus (act_bus h fun _ _ hn => ⟨⟨rfl, hn⟩, hg⟩)) fun t1 h1 g1 => ?_
    obtain ⟨v, t2, e2, b2, g2⟩ := sampleData_block h1
    rw [e2, bind_done]
    refine onBlock_after b2 (onBlock_bind (R := fun t => t.guard = true) ?_ fun t3 h3 g3 => ?_)
    · obtain ⟨p, e, ht, hn⟩ := act_quiet (f := storeByte i v) b2.2.2.2.2
      rw [ht]
      exact ⟨blockStep_trans (t := { t2 with pins := p, env := e }) ⟨rfl, rfl, rfl, fun _ _ => rfl, hn⟩
        (storeByte_block i v (by omega) hn), g2.trans g1⟩
    · exact onBlock_bind (onBlock_of_bus (spin_bus _ _ rfl h3 g3)) fun t4 h4 g4 => ih (i + 1) (by omega) h4 g4

/-- A `Receive` of a block changes nothing but the bus and the block (R142). -/
theorem receive_block {s : State} (h : NoReset s) :
    OnBlock s (fun t => t.dOut = .released ∧ t.drqOut = .released) (receive blockSize s) :=
  onBlock_bind (R := fun t => t.guard = true) (onBlock_of_bus (act_bus h fun _ _ hn => ⟨⟨rfl, hn⟩, rfl⟩))
    fun _ h1 g1 => recvFrom_block blockSize 0 (by omega) h1 g1

/-- A call of the collaborator comes to its end. -/
theorem collCall_block {α : Type} (f : CollReply → State → α × State)
    (hf : ∀ r s, NoReset s → BlockStep s (f r s).2) {s : State} (h : NoReset s) :
    ∃ a t, collCall f s = .done (a, t) ∧ BlockStep s t := by
  obtain ⟨p, e, ht, hn⟩ := tick_quiet h
  refine ⟨_, _, by rw [collCall, ht, bind_done], ?_⟩
  exact blockStep_trans (t := popReply { s with pins := p, env := e }) ⟨rfl, rfl, rfl, fun _ _ => rfl, hn⟩ (hf _ _ hn)

theorem collRead_block (i : Nat) {s : State} (h : NoReset s) :
    ∃ a t, collRead i s = .done (a, t) ∧ BlockStep s t :=
  collCall_block _ (fun r s hs => ⟨rfl, rfl, rfl,
    fun k hk => read_writeBytes_beyond _ _ _ (by simpa [blockSize] using hk), hs⟩) h

theorem collWrite_block (i : Nat) {s : State} (h : NoReset s) :
    ∃ a t, collWrite i s = .done (a, t) ∧ BlockStep s t :=
  collCall_block _ (fun _ _ hs => ⟨rfl, rfl, rfl, fun _ _ => rfl, hs⟩) h

theorem setReady_block (ok : Bool) {s : State} (h : NoReset s) :
    ∃ t, setReady ok s = .done (ok, t) ∧ BlockStep s t := by
  obtain ⟨t, e, k⟩ := act_block (f := State.writeReady ok) (fun _ hs => ⟨rfl, rfl, rfl, fun _ _ => rfl, hs⟩) h
  exact ⟨t, by rw [setReady, e, bind_done], k⟩

theorem initDevice_block {s : State} (h : NoReset s) : ∃ a t, initDevice s = .done (a, t) ∧ BlockStep s t := by
  obtain ⟨t, e, n, c1, c2, c3, _, _, _, c4, _⟩ := initDevice_quiet h
  exact ⟨_, t, e, c1, c2, c3, fun _ _ => by rw [c4], n⟩

theorem retryGap_block (n : Nat) {s : State} (h : NoReset s) :
    ∃ a t, retryGap n s = .done (a, t) ∧ BlockStep s t := by
  obtain ⟨t, e, k⟩ := act_block (f := State.record .wdgService) (s := State.record (.raised .storageTransient) s)
    (fun _ hs => ⟨rfl, rfl, rfl, fun _ _ => rfl, hs⟩) h
  obtain ⟨u, e', k'⟩ := act_block (f := fun s => State.record (.delayed s.cfg.recoveryDelay) s)
    (fun _ hs => ⟨rfl, rfl, rfl, fun _ _ => rfl, hs⟩) k.2.2.2.2
  have ku := blockStep_trans k k'
  rw [retryGap, wdgService, e, bind_done, recoveryDelay, e', bind_done]
  split
  · obtain ⟨a, v, e2, k2⟩ := initDevice_block ku.2.2.2.2
    exact ⟨a, v, e2, blockStep_trans ku k2⟩
  · exact ⟨true, u, rfl, ku⟩

/-- The retry procedure changes nothing of the frame (R209). -/
theorem retryFrom_block {op : State → Flow (Bool × State)}
    (hop : ∀ s, NoReset s → ∃ a t, op s = .done (a, t) ∧ BlockStep s t) (n : Nat) {s : State} (h : NoReset s) :
    ∃ a t, retryFrom op n s = .done (a, t) ∧ BlockStep s t := by
  induction n generalizing s with
  | zero => exact ⟨false, setReady_block false h⟩
  | succ n ih =>
    obtain ⟨a, t, e, k⟩ := hop s h
    rw [retryFrom, e, bind_done]
    cases a
    · obtain ⟨u, e1, k1⟩ := act_block (fun _ hs => writeRem_block n hs) k.2.2.2.2
      have ku := blockStep_trans k k1
      simp only [Bool.false_eq_true, if_false, e1, bind_done]
      split
      · obtain ⟨b, v, e', k'⟩ := ih ku.2.2.2.2
        exact ⟨b, v, e', blockStep_trans ku k'⟩
      · obtain ⟨b, v, e2, k2⟩ := retryGap_block n ku.2.2.2.2
        have kv := blockStep_trans ku k2
        rw [e2, bind_done]
        cases b
        · exact ⟨false, v, rfl, kv⟩
        · obtain ⟨b, w, e', k'⟩ := ih kv.2.2.2.2
          exact ⟨b, w, e', blockStep_trans kv k'⟩
    · exact ⟨true, t, rfl, k⟩

theorem retry_block {op : State → Flow (Bool × State)}
    (hop : ∀ s, NoReset s → ∃ a t, op s = .done (a, t) ∧ BlockStep s t) {s : State} (h : NoReset s) :
    ∃ a t, retry op s = .done (a, t) ∧ BlockStep s t := by
  obtain ⟨t, e, k⟩ := act_block (fun _ hs => writeRem_block retryBound hs) h
  obtain ⟨a, u, e', k'⟩ := retryFrom_block hop retryBound k.2.2.2.2
  exact ⟨a, u, by rw [retry, e, bind_done, e'], blockStep_trans k k'⟩

theorem writeCnt_then {rest : State → Flow State} {R : State → Prop} (n : Nat)
    (hr : ∀ s, NoReset s → OnBlock s R (rest s)) {s : State} (h : NoReset s) :
    OnBlock s R ((act (writeCnt n) s).bind rest) := by
  obtain ⟨t, e, k⟩ := act_block (fun _ hs => writeCnt_block n hs) h
  rw [e, bind_done]
  exact onBlock_after k (hr t k.2.2.2.2)

/-- The loop of Read-block: its frame, and where it is left (R291). -/
theorem readLoop_block_frame (n b : Nat) {s : State} (h : NoReset s) :
    OnBlock s (fun t => t.phase = .idle) (readLoop n b s) := by
  induction n generalizing b s with
  | zero => exact onBlock_of_bus (sendSuccess_bus h)
  | succ n ih =>
    obtain ⟨t1, e1, k1⟩ := blockHead_block b h
    rw [readLoop, e1, bind_done]
    obtain ⟨ok, t2, e2, k2⟩ := retry_block (op := collRead b) (fun s hs => collRead_block b hs) k1.2.2.2.2
    rw [readBlock, e2, bind_done]
    refine onBlock_after (blockStep_trans k1 k2) ?_
    cases ok
    · exact onBlock_of_bus (raiseError_bus _ k2.2.2.2.2)
    · exact onBlock_bind (onBlock_of_bus (send_bus _ _ k2.2.2.2.2)) fun t3 h3 _ =>
        writeCnt_then n (fun s hs => ih (b + 1) hs) h3

theorem storeBlock_frame {rest : State → Flow State} (b n : Nat)
    (hr : ∀ s, NoReset s → OnBlock s (fun t => t.phase = .idle) (rest s)) {s : State} (h : NoReset s) :
    OnBlock s (fun t => t.phase = .idle) (storeBlock rest b n s) := by
  obtain ⟨ok, t2, e2, k2⟩ := retry_block (op := collWrite b) (fun s hs => collWrite_block b hs) h
  rw [storeBlock, writeBlock, e2, bind_done]
  refine onBlock_after k2 ?_
  cases ok
  · exact onBlock_of_bus (raiseError_bus _ k2.2.2.2.2)
  · exact writeCnt_then n hr k2.2.2.2.2

/-- The loop of Write-block: its frame, and where it is left (R292). -/
theorem writeLoop_block_frame (n b : Nat) {s : State} (h : NoReset s) :
    OnBlock s (fun t => t.phase = .idle) (writeLoop n b s) := by
  induction n generalizing b s with
  | zero => exact onBlock_of_bus (sendSuccess_bus h)
  | succ n ih =>
    obtain ⟨t1, e1, k1⟩ := blockHead_block b h
    rw [writeLoop, e1, bind_done]
    refine onBlock_after k1 (onBlock_bind (receive_block k1.2.2.2.2) fun t2 h2 _ => ?_)
    exact storeBlock_frame b n (fun s hs => ih (b + 1) hs) h2

end Sys2Proof.Machine
end

