-- ==== Sys2Proof/Laws/Invariant.lean ====
section
/-! SUPPORT. What each shared operation keeps of the machine's invariant, however it ends: one lemma for each, from the
outputs it starts with to the outputs it ends with. -/

namespace Sys2Proof.Machine

/-- The state meets what holds in every phase, with the given outputs and `STATUS_DONE`. -/
def At (o : Outputs) (k : Bool) (s : State) : Prop := s.common ∧ s.outputs = o ∧ s.statusDone = k

/-- The outputs with nothing driven. -/
def Outputs.free (led guard : Bool) : Outputs := { d := .released, irq := .released, led := led, guard := guard }

/-- The outputs of a status handshake. -/
def Outputs.status (code : Byte) : Outputs := { d := .drive code, irq := .asserted, led := false, guard := true }

/-- However the sequence ends, the invariant holds. -/
abbrev Keeps (f : Flow State) : Prop := f.Sat State.Inv State.Inv

/-! ## One recorded step -/

/-- A change that adds one entry, allowed by the guard, and makes the outputs what that entry says. -/
theorem at_record {o : Outputs} {k : Bool} {s u : State} (e : Event) (h : At o k s) (hl : u.log = e :: s.log)
    (ho : u.outputs = o.apply e) (ha : e.allowed o.guard = true) (hb : Memory.wf u.buf) (hr : u.rem ≤ retryBound)
    (hc : idField u.cf.b0 = 0) (hd : u.drqOut = .released) (hk : u.statusDone = s.statusDone) :
    At (o.apply e) k u := by
  obtain ⟨⟨_, _, _, _, h5, h6⟩, h7, h8⟩ := h
  refine ⟨⟨hb, hr, hc, hd, ?_, ?_⟩, ho, hk.trans h8⟩
  · rw [hl, outputsOf, h5, h7, ho]
  · rw [hl, disciplined, h5, h7, ha, h6]
    rfl

theorem watchdogReset_inv {o : Outputs} {k : Bool} {s : State} (h : At o k s) : (watchdogReset s).Inv := by
  obtain ⟨⟨_, _, _, _, h5, h6⟩, _, _⟩ := h
  have hc : (watchdogReset s).common := by
    refine ⟨wf_nil, Nat.zero_le _, by show idField 0 = 0; decide, rfl, rfl, ?_⟩
    show (Event.allowed _ .wasReset && disciplined s.log) = true
    rw [h6]
    rfl
  refine ⟨hc, ?_⟩
  unfold State.phaseOk
  have hp : (watchdogReset s).phase = if s.cfg.bootInit then .boot else .idle := rfl
  rw [hp]
  cases s.cfg.bootInit <;> exact ⟨rfl, rfl, rfl, rfl⟩

theorem tick_keeps {o : Outputs} {k : Bool} {s : State} (h : At o k s) : (tick s).Sat (At o k) State.Inv := by
  unfold tick
  split
  · exact h
  · exact h
  · exact watchdogReset_inv (s := { s with env := _ }) h

theorem act_keeps {o o' : Outputs} {k k' : Bool} {f : State → State} (hf : ∀ s, At o k s → At o' k' (f s)) {s : State}
    (h : At o k s) : (act f s).Sat (At o' k') State.Inv :=
  sat_bind (tick_keeps h) fun t ht => hf t ht

/-- The last atomic step before a phase is over. -/
theorem act_inv {o : Outputs} {k : Bool} {f : State → State} (hf : ∀ s, At o k s → (f s).Inv) {s : State}
    (h : At o k s) : Keeps (act f s) :=
  sat_bind (tick_keeps h) fun t ht => hf t ht

/-- A property that the peer's lines have no part in is still there when an atomic step begins. -/
theorem tick_still {o : Outputs} {k : Bool} {Q : State → Prop} (hf : ∀ s p e, Q s → Q { s with pins := p, env := e })
    {s : State} (h : At o k s) (hq : Q s) : (tick s).Sat (fun t => At o k t ∧ Q t) State.Inv := by
  have ht := tick_keeps h
  unfold tick at ht ⊢
  split at ht
  · exact ⟨ht, hq⟩
  · exact ⟨ht, hf s _ _ hq⟩
  · exact ht

/-- An atomic step keeps a property that its effect keeps, beside what is known of it. -/
theorem act_still {f : State → State} {P Q : State → Prop} (hf : ∀ s p e, Q s → Q (f { s with pins := p, env := e }))
    {s : State} (h : (act f s).Sat P State.Inv) (hq : Q s) : (act f s).Sat (fun t => P t ∧ Q t) State.Inv := by
  unfold act tick at h ⊢
  cases he : s.env with
  | nil => simp only [he, bind_done, sat_done] at h ⊢; exact ⟨h, hf s s.pins s.env hq⟩
  | cons e es =>
    cases e with
    | peer p => simp only [he, bind_done, sat_done] at h ⊢; exact ⟨h, hf s p es hq⟩
    | watchdog => simp only [he, bind_halt, sat_halt] at h ⊢; exact h

theorem record_at {o : Outputs} {k : Bool} {s : State} (e : Event) (h : At o k s) (he : o.apply e = o)
    (ha : e.allowed o.guard = true) : At o k (State.record e s) := by
  have := at_record (u := State.record e s) e h rfl (by rw [he]; exact h.2.1) ha h.1.1 h.1.2.1 h.1.2.2.1
    h.1.2.2.2.1 rfl
  rwa [he] at this

theorem setLed_keeps {o : Outputs} {k : Bool} (b : Bool) {s : State} (h : At o k s) :
    (setLed b s).Sat (At { o with led := b } k) State.Inv := by
  refine act_keeps (fun t ht => ?_) h
  obtain ⟨hc, ho, hk⟩ := ht
  exact at_record (u := State.writeLed b t) (.ledSet b) ⟨hc, ho, hk⟩ rfl (by rw [← ho]; rfl) rfl hc.1 hc.2.1
    hc.2.2.1 hc.2.2.2.1 rfl

theorem setGuard_keeps {o : Outputs} {k : Bool} (b : Bool) {s : State} (h : At o k s) (hb : b ≠ o.guard) :
    (setGuard b s).Sat (At { o with guard := b } k) State.Inv := by
  refine act_keeps (fun t ht => ?_) h
  obtain ⟨hc, ho, hk⟩ := ht
  exact at_record (u := State.writeGuard b t) (.guardSet b) ⟨hc, ho, hk⟩ rfl (by rw [← ho]; rfl)
    (by simpa [Event.allowed] using hb) hc.1 hc.2.1 hc.2.2.1 hc.2.2.2.1 rfl

theorem release_keeps {o : Outputs} {k : Bool} (l : LineSet) {s : State} (h : At o k s) (hg : o.guard = true) :
    (release l s).Sat (At (o.apply (.released l)) k) State.Inv := by
  refine act_keeps (fun t ht => ?_) h
  obtain ⟨hc, ho, hk⟩ := ht
  exact at_record (u := releaseLines l t) (.released l) ⟨hc, ho, hk⟩ rfl (by rw [← ho]; rfl) hg hc.1 hc.2.1
    hc.2.2.1 (by simp [hc.2.2.2.1]) rfl

theorem driveData_keeps {o : Outputs} {k : Bool} (v : Byte) {s : State} (h : At o k s) (hg : o.guard = true) :
    (driveData v s).Sat (At { o with d := .drive v } k) State.Inv := by
  refine act_keeps (fun t ht => ?_) h
  obtain ⟨hc, ho, hk⟩ := ht
  exact at_record (u := State.record (.droveData v) { t with dOut := .drive v }) (.droveData v) ⟨hc, ho, hk⟩ rfl
    (by rw [← ho]; rfl) hg hc.1 hc.2.1 hc.2.2.1 hc.2.2.2.1 rfl

theorem assertIrq_keeps {o : Outputs} {k : Bool} {s : State} (h : At o k s) (hg : o.guard = true) :
    (assertIrq s).Sat (At { o with irq := .asserted } k) State.Inv := by
  refine act_keeps (fun t ht => ?_) h
  obtain ⟨hc, ho, hk⟩ := ht
  exact at_record (u := State.record .assertedIrq { t with irqOut := .asserted }) .assertedIrq ⟨hc, ho, hk⟩ rfl
    (by rw [← ho]; rfl) hg hc.1 hc.2.1 hc.2.2.1 hc.2.2.2.1 rfl

theorem pulseLow_keeps {o : Outputs} {k : Bool} (n : Nat) {s : State} (h : At o k s) (hg : o.guard = true) :
    (pulseLow n s).Sat (At o k) State.Inv := by
  refine act_keeps (fun t ht => ?_) h
  obtain ⟨hc, ho, hk⟩ := ht
  exact at_record (u := drqHigh (State.record (.pulsedDrq n) (drqLow t))) (.pulsedDrq n) ⟨hc, ho, hk⟩ rfl
    (by rw [← ho]; rfl) hg hc.1 hc.2.1 hc.2.2.1 rfl rfl

theorem wdgService_keeps {o : Outputs} {k : Bool} {s : State} (h : At o k s) (hg : o.guard = false) :
    (wdgService s).Sat (At o k) State.Inv :=
  act_keeps (fun _ ht => record_at .wdgService ht rfl (by simp [Event.allowed, hg])) h

theorem recoveryDelay_keeps {o : Outputs} {k : Bool} {s : State} (h : At o k s) (hg : o.guard = false) :
    (recoveryDelay s).Sat (At o k) State.Inv :=
  act_keeps (f := fun s => State.record (.delayed s.cfg.recoveryDelay) s)
    (fun _ ht => record_at _ ht rfl (by simp [Event.allowed, hg])) h

theorem sampleData_keeps {o : Outputs} {k : Bool} {s : State} (h : At o k s) :
    (sampleData s).Sat (fun r => At o k r.2) State.Inv := by
  refine sat_bind (tick_keeps h) fun t ht => ?_
  rw [sat_done]
  refine record_at _ ?_ rfl rfl
  unfold dataLines
  split <;> exact ht

theorem sampleLines_keeps {o : Outputs} {k : Bool} {s : State} (h : At o k s) (hg : o.guard = false) :
    (sampleLines s).Sat (fun r => At o k r.2) State.Inv :=
  sat_bind (tick_keeps h) fun _ ht => record_at _ ht rfl (by simp [Event.allowed, hg])

/-! ## Waits -/

/-- A wait: the state it ends in, or the state it is left in when the peer holds its lines. -/
theorem spinOver_keeps (w : WaitKind) (ph : Phase) (es : List EnvEvent) {o : Outputs} {k : Bool} {P : State → Prop}
    (hP : ∀ s p e l, P s → P { s with pins := p, env := e, log := l })
    (hI : ∀ s, At o k s → P s → State.Inv { s with phase := ph }) {s : State} (h : At o k s) (hs : P s)
    (hg : o.guard = true) : (spinOver w ph s es).Sat (fun t => At o k t ∧ P t) State.Inv := by
  induction es generalizing s with
  | nil =>
    unfold spinOver
    split
    · exact ⟨record_at (s := { s with env := [] }) _ h rfl hg, hP s _ _ _ hs⟩
    · exact hI { s with env := [] } h (hP s s.pins [] s.log hs)
  | cons e es ih =>
    cases e with
    | peer p =>
      unfold spinOver
      split
      · exact ⟨record_at (s := { s with pins := p, env := es }) _ h rfl hg, hP s _ _ _ hs⟩
      · exact ih (s := { s with pins := p }) h (hP s p s.env s.log hs)
    | watchdog => exact watchdogReset_inv (s := { s with env := es }) h

theorem spinUntil_keeps (w : WaitKind) (ph : Phase) {o : Outputs} {k : Bool} {P : State → Prop}
    (hP : ∀ s p e l, P s → P { s with pins := p, env := e, log := l })
    (hI : ∀ s, At o k s → P s → State.Inv { s with phase := ph }) {s : State} (h : At o k s) (hs : P s)
    (hg : o.guard = true) : (spinUntil w ph s).Sat (fun t => At o k t ∧ P t) State.Inv :=
  spinOver_keeps w ph s.env hP hI h hs hg

/-! ## The status handshake -/

theorem statusReturn_keeps {code : Byte} {k : Bool} {s : State} (h : At (.status code) k s) :
    Keeps (statusReturn s) := by
  refine sat_bind (release_keeps .all h rfl) fun t1 h1 => ?_
  refine sat_bind (setGuard_keeps false h1 (by simp [Outputs.apply, Outputs.status])) fun t2 h2 => ?_
  have h3 := act_keeps (f := State.writeStatusDone true) (k' := true) (fun t ht => ⟨ht.1, ht.2.1, rfl⟩) h2
  refine sat_bind h3 fun t3 h3 => act_inv (fun t ht => ?_) h3
  obtain ⟨hc, ho, _⟩ := ht
  exact ⟨hc, congrArg Outputs.led ho, congrArg Outputs.guard ho, congrArg Outputs.d ho, congrArg Outputs.irq ho⟩

theorem sendingStatus_inv {code : Byte} (hcode : code = statusOk ∨ code = statusErr) (p : StatusPos) (s : State)
    (h : At (.status code) false s) : State.Inv { s with phase := .sendingStatus p } := by
  obtain ⟨hc, ho, hk⟩ := h
  have e1 := congrArg Outputs.led ho
  have e2 := congrArg Outputs.guard ho
  have e3 : s.dOut = .drive code := congrArg Outputs.d ho
  have e4 := congrArg Outputs.irq ho
  exact ⟨hc, e1, e2, hcode.imp (fun h => e3.trans (congrArg _ h)) (fun h => e3.trans (congrArg _ h)), e4, hk⟩

theorem statusWaitDeasserted_keeps {code : Byte} (hcode : code = statusOk ∨ code = statusErr) {s : State}
    (h : At (.status code) false s) : (statusWaitDeasserted s).Sat (At (.status code) false) State.Inv :=
  sat_mono (spinUntil_keeps _ _ (P := fun _ => True) (fun _ _ _ _ _ => trivial)
    (fun t ht _ => sendingStatus_inv hcode _ t ht) h trivial rfl) (fun _ ht => ht.1) (fun _ hi => hi)

theorem statusWaitAsserted_keeps {code : Byte} (hcode : code = statusOk ∨ code = statusErr) {s : State}
    (h : At (.status code) false s) : (statusWaitAsserted s).Sat (At (.status code) false) State.Inv :=
  sat_mono (spinUntil_keeps _ _ (P := fun _ => True) (fun _ _ _ _ _ => trivial)
    (fun t ht _ => sendingStatus_inv hcode _ t ht) h trivial rfl) (fun _ ht => ht.1) (fun _ hi => hi)

theorem statusWait_keeps {code : Byte} (hcode : code = statusOk ∨ code = statusErr) {s : State}
    (h : At (.status code) false s) : (statusWait s).Sat (At (.status code) false) State.Inv := by
  unfold statusWait
  split
  · exact statusWaitDeasserted_keeps hcode h
  · exact sat_bind (statusWaitAsserted_keeps hcode h) fun _ ht => statusWaitDeasserted_keeps hcode ht

theorem sendStatus_keeps {code : Byte} (hcode : code = statusOk ∨ code = statusErr) {s : State}
    (h : At (.free true false) false s) : Keeps (sendStatus code s) :=
  sat_bind (act_keeps (f := fun s => writePhase (.sendingStatus (statusStart s.cfg)) s) (fun _ ht => ht) h) fun _ h0 =>
  sat_bind (setLed_keeps false h0) fun _ h1 =>
  sat_bind (setGuard_keeps true h1 (by decide)) fun _ h2 =>
  sat_bind (driveData_keeps code h2 rfl) fun _ h3 =>
  sat_bind (assertIrq_keeps h3 rfl) fun _ h4 =>
  sat_bind (statusWait_keeps hcode h4) fun _ h5 => statusReturn_keeps h5

theorem sendSuccess_keeps {s : State} (h : At (.free true false) false s) : Keeps (sendSuccess s) :=
  sendStatus_keeps (.inl rfl) h

theorem raiseError_keeps (e : ErrorKind) {s : State} (h : At (.free true false) false s) :
    Keeps (raiseError e s) :=
  sendStatus_keeps (.inr rfl) (record_at _ h rfl rfl)

/-! ## Storage -/

theorem collCall_keeps {α : Type} {o : Outputs} {k : Bool} (f : CollReply → State → α × State)
    (hf : ∀ r s, At o k s → At o k (f r s).2) {s : State} (h : At o k s) :
    (collCall f s).Sat (fun r => At o k r.2) State.Inv :=
  sat_bind (tick_keeps h) fun t ht => hf _ (popReply t) ht

theorem setReady_keeps {o : Outputs} {k : Bool} (ok : Bool) {s : State} (h : At o k s) :
    (setReady ok s).Sat (fun r => At o k r.2) State.Inv :=
  sat_bind (act_keeps (f := State.writeReady ok) (fun _ ht => ht) h) fun _ ht => ht

theorem initDevice_keeps {o : Outputs} {k : Bool} (hg : o.guard = false) {s : State} (h : At o k s) :
    (initDevice s).Sat (fun r => At o k r.2) State.Inv := by
  refine sat_bind (collCall_keeps _ (fun r s hs => record_at _ hs rfl (by simp [Event.allowed, hg])) h) fun r hr => ?_
  obtain ⟨ok, t⟩ := r
  cases ok
  · exact setReady_keeps false hr
  · refine sat_bind (collCall_keeps _ (fun r s hs => record_at _ hs rfl (by simp [Event.allowed, hg])) hr) fun r hu => ?_
    exact sat_bind (act_keeps (f := writeCapacity r.1) (fun _ ht => ht) hu) fun _ hv => setReady_keeps true hv

theorem memWrite_at {o : Outputs} {k : Bool} {s : State} (l : List Byte) (hl : l.length ≤ bufCap) (h : At o k s) :
    At o k (memWrite l s) :=
  ⟨⟨wf_writeBytes _ _ _ h.1.1 (by omega), h.1.2⟩, h.2⟩

theorem storeByte_at {o : Outputs} {k : Bool} {s : State} (i : Nat) (v : Byte) (hi : i < bufCap) (h : At o k s) :
    At o k (storeByte i v s) :=
  ⟨⟨wf_write _ _ _ h.1.1 hi, h.1.2⟩, h.2⟩

theorem collRead_keeps {o : Outputs} {k : Bool} (i : Nat) (hg : o.guard = false) {s : State} (h : At o k s) :
    (collRead i s).Sat (fun r => At o k r.2) State.Inv :=
  collCall_keeps _ (fun r s hs => record_at (s := memWrite r.data.toList s) _
    (memWrite_at _ (by simp [bufCap]) hs) rfl (by simp [Event.allowed, hg])) h

theorem collWrite_keeps {o : Outputs} {k : Bool} (i : Nat) (hg : o.guard = false) {s : State} (h : At o k s) :
    (collWrite i s).Sat (fun r => At o k r.2) State.Inv :=
  collCall_keeps _ (fun _ _ hs => record_at _ hs rfl (by simp [Event.allowed, hg])) h

theorem retryFrom_keeps {op : State → Flow (Bool × State)} {o : Outputs} {k : Bool}
    (hop : ∀ s, At o k s → (op s).Sat (fun r => At o k r.2) State.Inv) (hg : o.guard = false) (n : Nat)
    (hn : n ≤ retryBound) {s : State} (h : At o k s) :
    (retryFrom op n s).Sat (fun r => At o k r.2) State.Inv := by
  induction n generalizing s with
  | zero => exact setReady_keeps false h
  | succ n ih =>
    refine sat_bind (hop s h) fun r hr => ?_
    obtain ⟨ok, t⟩ := r
    cases ok
    · have hw := act_keeps (o' := o) (k' := k) (f := writeRem n)
        (fun _ ht => ⟨⟨ht.1.1, by simp only [writeRem_rem]; omega, ht.1.2.2⟩, ht.2⟩) hr
      refine sat_bind hw fun t hw => ?_
      split
      · exact ih (by omega) hw
      · refine sat_bind (P := fun r => At o k r.2) ?_ fun r hr => ?_
        · refine sat_bind (wdgService_keeps (record_at _ hw rfl (by simp [Event.allowed, hg])) hg) fun t1 h1 => ?_
          refine sat_bind (recoveryDelay_keeps h1 hg) fun t2 h2 => ?_
          split
          · exact initDevice_keeps hg h2
          · exact h2
        · obtain ⟨ok, u⟩ := r
          cases ok
          · exact hr
          · exact ih (by omega) hr
    · exact hr

theorem retry_keeps {op : State → Flow (Bool × State)} {o : Outputs} {k : Bool}
    (hop : ∀ s, At o k s → (op s).Sat (fun r => At o k r.2) State.Inv) (hg : o.guard = false) {s : State}
    (h : At o k s) : (retry op s).Sat (fun r => At o k r.2) State.Inv :=
  sat_bind (act_keeps (o' := o) (k' := k) (f := writeRem retryBound)
    (fun _ ht => ⟨⟨ht.1.1, by simp [retryBound], ht.1.2.2⟩, ht.2⟩) h) fun _ ht =>
  retryFrom_keeps hop hg retryBound (Nat.le_refl _) ht

/-! ## Transfers -/

theorem endTransfer_keeps {d : DataDrive} {k : Bool} {s : State}
    (h : At { d := d, irq := .released, led := true, guard := true } k s) :
    (endTransfer s).Sat (At (.free true false) k) State.Inv :=
  sat_bind (release_keeps .dma h rfl) fun _ h1 => setGuard_keeps false h1 (by simp [Outputs.apply])

theorem sendAck_inv {n i : Nat} (next : AfterSend) (hi : i < n) (hn : n ≤ bufCap) (v : Byte) (s : State)
    (h : At { d := .drive v, irq := .released, led := true, guard := true } false s)
    (hv : Memory.read s.buf i = v) : State.Inv { s with phase := .dispatching (.sendAck i n next) } := by
  obtain ⟨hc, ho, hk⟩ := h
  have e1 := congrArg Outputs.led ho
  have e2 := congrArg Outputs.guard ho
  have e3 : s.dOut = .drive v := congrArg Outputs.d ho
  have e4 := congrArg Outputs.irq ho
  exact ⟨hc, e1, e2, by rw [hv]; exact e3, e4, hi, hn, hk⟩

theorem waitSendAck_keeps {n i : Nat} (next : AfterSend) (hi : i < n) (hn : n ≤ bufCap) {v : Byte} {s : State}
    (h : At { d := .drive v, irq := .released, led := true, guard := true } false s)
    (hv : Memory.read s.buf i = v) :
    (waitSendAck n next i s).Sat (At { d := .drive v, irq := .released, led := true, guard := true } false)
      State.Inv :=
  sat_mono (spinUntil_keeps _ _ (P := fun s => Memory.read s.buf i = v) (fun _ _ _ _ h => h)
    (fun t ht hp => sendAck_inv next hi hn v t ht hp) h hv rfl) (fun _ ht => ht.1) (fun _ hi => hi)

theorem sendFrom_keeps {n : Nat} (next : AfterSend) (hn : n ≤ bufCap) (j i : Nat) (hj : i + j = n) {d : DataDrive}
    {s : State} (h : At { d := d, irq := .released, led := true, guard := true } false s) :
    (sendFrom n next j i s).Sat (At (.free true false) false) State.Inv := by
  induction j generalizing i s d with
  | zero => exact endTransfer_keeps h
  | succ j ih =>
    refine sat_bind (act_still (Q := fun t => Memory.read t.buf i = Memory.read s.buf i) (fun _ _ _ h => h)
      (driveData_keeps (Memory.read s.buf i) h rfl) rfl) fun t1 h1 => ?_
    refine sat_bind (act_still (Q := fun t => Memory.read t.buf i = Memory.read s.buf i) (fun _ _ _ h => h)
      (pulseLow_keeps t1.cfg.sendPulseCycles h1.1 rfl) h1.2) fun t2 h2 => ?_
    refine sat_bind (waitSendAck_keeps next (by omega) hn h2.1 h2.2) fun t3 h3 => ?_
    exact ih (i + 1) (by omega) h3

theorem send_keeps {n : Nat} (next : AfterSend) (hn : n ≤ bufCap) {s : State} (h : At (.free true false) false s) :
    (send n next s).Sat (At (.free true false) false) State.Inv :=
  sat_bind (setGuard_keeps true h (by decide)) fun _ h1 => sendFrom_keeps next hn n 0 (by omega) h1

theorem recvAck_inv {i : Nat} (hi : i < blockSize) (s : State) (h : At (.free true true) false s) :
    State.Inv { s with phase := .dispatching (.recvAck i) } := by
  obtain ⟨hc, ho, hk⟩ := h
  have e1 := congrArg Outputs.led ho
  have e2 := congrArg Outputs.guard ho
  have e3 := congrArg Outputs.d ho
  have e4 := congrArg Outputs.irq ho
  exact ⟨hc, e1, e2, e3, e4, hi, hk⟩

theorem waitRecvAck_keeps {i : Nat} (hi : i < blockSize) {s : State} (h : At (.free true true) false s) :
    (waitRecvAck i s).Sat (At (.free true true) false) State.Inv :=
  sat_mono (spinUntil_keeps _ _ (P := fun _ => True) (fun _ _ _ _ _ => trivial)
    (fun t ht _ => recvAck_inv hi t ht) h trivial rfl) (fun _ ht => ht.1) (fun _ hi => hi)

theorem recvFrom_keeps (j i : Nat) (hj : i + j ≤ blockSize) {s : State} (h : At (.free true true) false s) :
    (recvFrom j i s).Sat (At (.free true false) false) State.Inv := by
  induction j generalizing i s with
  | zero => exact endTransfer_keeps h
  | succ j ih =>
    refine sat_bind (pulseLow_keeps _ h rfl) fun t1 h1 => ?_
    refine sat_bind (sampleData_keeps h1) fun r h2 => ?_
    have hi : i < blockSize := by omega
    refine sat_bind (act_keeps (fun _ ht => storeByte_at i r.1 hi ht) h2) fun t2 h2 => ?_
    refine sat_bind (waitRecvAck_keeps hi h2) fun t3 h3 => ?_
    exact ih (i + 1) (by omega) h3

theorem receive_keeps {s : State} (h : At (.free true false) false s) :
    (receive blockSize s).Sat (At (.free true false) false) State.Inv :=
  sat_bind (setGuard_keeps true h (by decide)) fun _ h1 => recvFrom_keeps blockSize 0 (by omega) h1

/-! ## What the commands share -/

theorem prologue_keeps {body : State → Flow State} (hb : ∀ s, At (.free true false) false s → Keeps (body s))
    {s : State} (h : At (.free true false) false s) : Keeps (prologue body s) := by
  unfold prologue
  split
  · exact hb s h
  · refine sat_bind (initDevice_keeps rfl h) fun r hr => ?_
    obtain ⟨ok, t⟩ := r
    cases ok
    · exact raiseError_keeps _ hr
    · exact hb t hr

theorem sendResponse_keeps (n : Nat) (hn : n ≤ bufCap) {s : State} (h : At (.free true false) false s) :
    Keeps (sendResponse n s) :=
  sat_bind (send_keeps _ hn h) fun _ h1 => sendSuccess_keeps h1

theorem respond_keeps (l : List Byte) (n : Nat) (hl : l.length ≤ bufCap) (hn : n ≤ bufCap) {s : State}
    (h : At (.free true false) false s) : Keeps (respond l n s) :=
  sat_bind (act_keeps (fun _ ht => memWrite_at l hl ht) h) fun _ h1 => sendResponse_keeps n hn h1

theorem storeBytes_keeps {o : Outputs} {k : Bool} (l : List Byte) (i : Nat) (hl : i + l.length ≤ bufCap) {s : State}
    (h : At o k s) : (storeBytes l i s).Sat (At o k) State.Inv := by
  induction l generalizing i s with
  | nil => exact h
  | cons v l ih =>
    simp only [List.length_cons] at hl
    exact sat_bind (act_keeps (fun _ ht => storeByte_at i v (by omega) ht) h) fun _ h1 => ih (i + 1) (by omega) h1

theorem inquiry_keeps (n : Nat) (hn : n ≤ 255) {s : State} (h : At (.free true false) false s) :
    Keeps (inquiry n s) := by
  have hl : (inquiryResponse s.cfg n).length ≤ bufCap := by
    simp only [inquiryResponse, bufCap, List.length_append, List.length_take, List.length_replicate]
    omega
  exact sat_bind (storeBytes_keeps _ 0 (by omega) h) fun _ h1 =>
    sendResponse_keeps n (Nat.le_trans hn (by decide)) h1

theorem forceInit_keeps {s : State} (h : At (.free true false) false s) : Keeps (forceInit s) := by
  refine sat_bind (initDevice_keeps rfl h) fun r hr => ?_
  obtain ⟨ok, t⟩ := r
  cases ok
  · exact raiseError_keeps _ hr
  · exact sendSuccess_keeps hr

/-! ## The block commands -/

theorem writeCnt_keeps {rest : State → Flow State} (n : Nat)
    (hr : ∀ s, At (.free true false) false s → Keeps (rest s)) {s : State} (h : At (.free true false) false s) :
    Keeps ((act (writeCnt n) s).bind rest) :=
  sat_bind (act_keeps (f := writeCnt n) (fun _ ht => ht) h) fun t ht => hr t ht

theorem blockHead_keeps (b : Nat) {s : State} (h : At (.free true false) false s) :
    (blockHead b s).Sat (At (.free true false) false) State.Inv :=
  sat_bind (act_keeps (f := writeBlk b) (fun _ ht => ht) h) fun _ ht => wdgService_keeps ht rfl

theorem readLoop_keeps (n b : Nat) {s : State} (h : At (.free true false) false s) : Keeps (readLoop n b s) := by
  induction n generalizing b s with
  | zero => exact sendSuccess_keeps h
  | succ n ih =>
    refine sat_bind (blockHead_keeps b h) fun t1 h1 => ?_
    refine sat_bind (retry_keeps (fun _ hs => collRead_keeps b rfl hs) rfl h1) fun r hr => ?_
    obtain ⟨ok, t2⟩ := r
    cases ok
    · exact raiseError_keeps _ hr
    · exact sat_bind (send_keeps _ (Nat.le_refl _) hr) fun t3 h3 => writeCnt_keeps n (fun _ hs => ih (b + 1) hs) h3

theorem storeBlock_keeps {rest : State → Flow State} (hr : ∀ s, At (.free true false) false s → Keeps (rest s))
    (b n : Nat) {s : State} (h : At (.free true false) false s) : Keeps (storeBlock rest b n s) := by
  refine sat_bind (retry_keeps (fun _ hs => collWrite_keeps b rfl hs) rfl h) fun r hr' => ?_
  obtain ⟨ok, t⟩ := r
  cases ok
  · exact raiseError_keeps _ hr'
  · exact writeCnt_keeps n hr hr'

theorem writeLoop_keeps (n b : Nat) {s : State} (h : At (.free true false) false s) : Keeps (writeLoop n b s) := by
  induction n generalizing b s with
  | zero => exact sendSuccess_keeps h
  | succ n ih =>
    refine sat_bind (blockHead_keeps b h) fun t1 h1 => ?_
    exact sat_bind (receive_keeps h1) fun t2 h2 => storeBlock_keeps (fun s hs => ih (b + 1) hs) b n h2

theorem blockCommand_keeps {loop : Nat → Nat → State → Flow State}
    (hl : ∀ n b s, At (.free true false) false s → Keeps (loop n b s)) (a : Args) {s : State}
    (h : At (.free true false) false s) : Keeps (blockCommand loop a s) := by
  unfold blockCommand
  split
  · exact writeCnt_keeps _ (fun t ht => hl _ _ t ht) h
  · exact raiseError_keeps _ h

/-- Every command keeps the invariant, from its first line on (R231). -/
theorem exec_keeps (i : Instr) {s : State} (h : At (.free true false) false s) :
    ∃ f : Flow State, exec i s = f.next ∧ Keeps f := by
  have hs (cap : BitVec 32) (n : Nat) (hn : n ≤ 255) : (senseResponse cap (senseLength n)).length ≤ bufCap := by
    simp only [senseResponse, be24, senseLength, bufCap, List.length_cons, List.length_append, List.length_replicate,
      List.length_nil]
    omega
  have h0 (c : Config) (cap : BitVec 32) : (modePage0 c cap).length ≤ bufCap := by simp [modePage0, be24, bufCap]
  have h4 (c : Config) (cap : BitVec 32) : (modePage4 c cap).length ≤ bufCap := by simp [modePage4, be24, bufCap]
  have hc (a : Args) : countOperand a ≤ 255 := by
    have := a.len.isLt
    simp only [countOperand]
    omega
  have hb (a : Args) : countOperand a ≤ bufCap := Nat.le_trans (hc a) (by decide)
  cases i with
  | testReady a => exact ⟨_, rfl, prologue_keeps (fun _ hs => forceInit_keeps hs) h⟩
  | requestSense a =>
    refine ⟨_, rfl, prologue_keeps (fun t ht => sat_bind (initDevice_keeps rfl ht) fun r hr => ?_) h⟩
    exact respond_keeps _ _ (hs _ _ (hc a)) (hb a) hr
  | formatDrive a => exact ⟨_, rfl, prologue_keeps (fun _ hs => forceInit_keeps hs) h⟩
  | verifyTrack a => exact ⟨_, rfl, prologue_keeps (fun _ hs => forceInit_keeps hs) h⟩
  | formatTrack a => exact ⟨_, rfl, prologue_keeps (fun _ hs => forceInit_keeps hs) h⟩
  | readBlock a =>
    exact ⟨_, rfl, prologue_keeps (fun _ hs => blockCommand_keeps (fun n b _ hs => readLoop_keeps n b hs) a hs) h⟩
  | writeBlock a =>
    exact ⟨_, rfl, prologue_keeps (fun _ hs => blockCommand_keeps (fun n b _ hs => writeLoop_keeps n b hs) a hs) h⟩
  | seek a => exact ⟨_, rfl, prologue_keeps (fun _ hs => sendSuccess_keeps hs) h⟩
  | correction a => exact ⟨_, rfl, prologue_keeps (fun _ hs => sendSuccess_keeps hs) h⟩
  | inquiry a => exact ⟨_, rfl, prologue_keeps (fun _ hs => inquiry_keeps _ (hc a) hs) h⟩
  | modeSelect a => exact ⟨_, rfl, prologue_keeps (fun _ hs => sendSuccess_keeps hs) h⟩
  | modeSense0 a => exact ⟨_, rfl, prologue_keeps (fun _ hs => respond_keeps _ _ (h0 _ _) (by decide) hs) h⟩
  | modeSense4 a => exact ⟨_, rfl, prologue_keeps (fun _ hs => respond_keeps _ _ (h4 _ _) (by decide) hs) h⟩
  | ship a => exact ⟨_, rfl, prologue_keeps (fun _ hs => sendSuccess_keeps hs) h⟩
  | unsupported o a => exact ⟨_, rfl, prologue_keeps (fun _ hs => raiseError_keeps _ hs) h⟩

/-! ## Going on from a wait -/

theorem afterSend_keeps (next : AfterSend) {s : State} (h : At (.free true false) false s) :
    Keeps (afterSend next s) := by
  cases next with
  | status => exact sendSuccess_keeps h
  | readLoop => exact writeCnt_keeps _ (fun _ hs => readLoop_keeps _ _ hs) h

theorem resumeSend_keeps {i n : Nat} (next : AfterSend) (hi : i < n) (hn : n ≤ bufCap) {v : Byte} {s : State}
    (h : At { d := .drive v, irq := .released, led := true, guard := true } false s)
    (hv : Memory.read s.buf i = v) :
    Keeps (((waitSendAck n next i s).bind (sendFrom n next (n - (i + 1)) (i + 1))).bind (afterSend next)) := by
  refine sat_bind (P := At (.free true false) false) ?_ fun t ht => afterSend_keeps next ht
  exact sat_bind (waitSendAck_keeps next hi hn h hv) fun t ht => sendFrom_keeps next hn _ _ (by omega) ht

theorem resumeReceive_keeps {i : Nat} (hi : i < blockSize) {s : State} (h : At (.free true true) false s) :
    Keeps (resumeReceive i s) := by
  refine sat_bind (P := At (.free true false) false) ?_ fun t ht =>
    storeBlock_keeps (fun u hu => writeLoop_keeps _ _ hu) _ _ ht
  exact sat_bind (waitRecvAck_keeps hi h) fun t ht => recvFrom_keeps _ _ (by omega) ht

theorem resumeStatus_keeps {code : Byte} (hcode : code = statusOk ∨ code = statusErr) (p : StatusPos) {s : State}
    (h : At (.status code) false s) : Keeps (resumeStatus p s) := by
  cases p with
  | asserted =>
    refine sat_bind (P := At (.status code) false) ?_ fun t ht => statusReturn_keeps ht
    exact sat_bind (statusWaitAsserted_keeps hcode h) fun t ht => statusWaitDeasserted_keeps hcode ht
  | deasserted => exact sat_bind (statusWaitDeasserted_keeps hcode h) fun t ht => statusReturn_keeps ht

/-! ## Reception -/

/-- The outputs, one by one. -/
theorem at_outputs {o : Outputs} {k : Bool} {s : State} (h : At o k s) :
    s.dOut = o.d ∧ s.irqOut = o.irq ∧ s.led = o.led ∧ s.guard = o.guard :=
  ⟨congrArg Outputs.d h.2.1, congrArg Outputs.irq h.2.1, congrArg Outputs.led h.2.1, congrArg Outputs.guard h.2.1⟩

theorem quiet_inv (ph : Phase) (hp : ph = .idle ∨ ph = .addressMatch) {k : Bool} {s : State}
    (h : At (.free false false) k s) : State.Inv (writePhase ph s) := by
  obtain ⟨h1, h2, h3, h4⟩ := at_outputs h
  rcases hp with rfl | rfl <;> exact ⟨h.1, h3, h4, h1, h2⟩

theorem bootStep_keeps {k : Bool} {s : State} (h : At (.free false false) k s) : Keeps (bootStep s) :=
  sat_bind (initDevice_keeps rfl h) fun _ hr =>
    act_inv (fun _ ht => quiet_inv .idle (.inl rfl) ht) hr

theorem idleStep_keeps {k : Bool} {s : State} (h : At (.free false false) k s) : Keeps (idleStep s) := by
  refine sat_bind (wdgService_keeps h rfl) fun t1 h1 => ?_
  refine sat_bind (sampleLines_keeps h1 rfl) fun r h2 => ?_
  obtain ⟨⟨cs, a1⟩, t2⟩ := r
  show Keeps (if _ then _ else _)
  split
  · exact act_inv (fun _ ht => quiet_inv .addressMatch (.inr rfl) ht) h2
  · exact quiet_inv .idle (.inl rfl) h2

theorem storedOpcode_id (raw : Byte) : idField (storedOpcode raw) = 0 := by
  apply BitVec.eq_of_toNat_eq
  have := raw.isLt
  simp [idField, storedOpcode, opcField, BitVec.extractLsb'_toNat, Nat.shiftRight_eq_div_pow]
  omega

theorem receivingBytes_inv (w : Bool) {k : Bool} {s : State}
    (h : At { d := .released, irq := if w then .asserted else .released, led := true, guard := true } k s)
    (hb : 1 ≤ s.bi.val) (hp : s.phase = .receivingBytes w) : s.Inv := by
  obtain ⟨h1, h2, h3, h4⟩ := at_outputs h
  refine ⟨h.1, ?_⟩
  unfold State.phaseOk
  rw [hp]
  exact ⟨h3, h4, h1, h2, hb⟩

theorem addressMatchStep_keeps {k : Bool} {s : State} (h : At (.free false false) k s) :
    Keeps (addressMatchStep s) := by
  refine sat_bind (sampleData_keeps h) fun r h1 => ?_
  obtain ⟨raw, t1⟩ := r
  show Keeps (if _ then _ else _)
  split
  · refine sat_bind (act_keeps (o' := .free false false) (k' := k) (f := writeFrame 0 (storedOpcode raw))
      (fun _ ht => ⟨⟨ht.1.1, ht.1.2.1, storedOpcode_id raw, ht.1.2.2.2⟩, ht.2⟩) h1) fun t2 h2 => ?_
    refine sat_bind (P := fun t => At (.free false false) k t ∧ t.phase = .receivingBytes false)
      (sat_bind (tick_keeps h2) fun _ ht => ⟨ht, rfl⟩) fun t3 h3 => ?_
    refine sat_bind (act_still (Q := fun t => t.phase = .receivingBytes false) (fun _ _ _ h => h)
      (setGuard_keeps true h3.1 (by decide)) h3.2) fun t4 h4 => ?_
    refine sat_bind (act_still (Q := fun t => t.phase = .receivingBytes false) (fun _ _ _ h => h)
      (setLed_keeps true h4.1) h4.2) fun t5 h5 => ?_
    refine sat_bind (tick_still (Q := fun t => t.phase = .receivingBytes false) (fun _ _ _ h => h) h5.1 h5.2)
      fun t ht => ?_
    exact receivingBytes_inv false (s := writeBi 1 t) ht.1 (Nat.le_refl 1) ht.2
  · exact act_inv (fun _ ht => quiet_inv .idle (.inl rfl) ht) h1

theorem sampleData_bi {P : Byte × State → Prop} {b : Fin 6} {s : State} (h : (sampleData s).Sat P State.Inv)
    (hb : s.bi = b) : (sampleData s).Sat (fun r => P r ∧ r.2.bi = b) State.Inv := by
  have hd (t : State) : (dataLines t).2.bi = t.bi := by unfold dataLines; split <;> rfl
  unfold sampleData tick at h ⊢
  cases he : s.env with
  | nil => simp only [he, bind_done, sat_done] at h ⊢; exact ⟨h, (hd _).trans hb⟩
  | cons e es =>
    cases e with
    | peer q => simp only [he, bind_done, sat_done] at h ⊢; exact ⟨h, (hd _).trans hb⟩
    | watchdog => simp only [he, bind_halt, sat_halt] at h ⊢; exact h

theorem nextByte_keeps {k : Bool} {s : State} (h : At (.free true true) k s) (hb : 1 ≤ s.bi.val) :
    Keeps (nextByte s) := by
  unfold nextByte
  split
  · refine act_inv (fun t ht => ?_) h
    obtain ⟨h1, h2, h3, h4⟩ := at_outputs ht
    exact ⟨ht.1, h3, h4, h1, h2⟩
  · refine sat_bind (tick_still (Q := fun t => t.bi = s.bi) (fun _ _ _ h => h) h rfl) fun t ht => ?_
    refine receivingBytes_inv false (k := k) (s := writePhase (.receivingBytes false) (writeBi (t.bi + 1) t)) ht.1 ?_ rfl
    show 1 ≤ (t.bi + 1).val
    rw [ht.2]
    omega

theorem receiveByteStep_keeps (w : Bool) {k : Bool} {s : State}
    (h : At { d := .released, irq := if w then .asserted else .released, led := true, guard := true } k s)
    (hb : 1 ≤ s.bi.val) : Keeps (receiveByteStep w s) := by
  refine sat_bind (P := fun t => At { d := .released, irq := .asserted, led := true, guard := true } k t ∧
    t.bi = s.bi) ?_ fun t1 h1 => ?_
  · cases w
    · exact act_still (Q := fun t => t.bi = s.bi) (fun _ _ _ h => h) (assertIrq_keeps h rfl) rfl
    · exact ⟨h, rfl⟩
  refine sat_bind (P := fun t => At { d := .released, irq := .asserted, led := true, guard := true } k t ∧
    t.bi = s.bi) ?_ fun t2 h2 => ?_
  · refine spinUntil_keeps _ _ (P := fun t => t.bi = s.bi) (fun _ _ _ _ h => h) (fun t ht hp => ?_) h1.1 h1.2 rfl
    exact receivingBytes_inv true (s := { t with phase := .receivingBytes true }) ht (by
      show 1 ≤ t.bi.val
      rw [hp]
      exact hb) rfl
  refine sat_bind (P := fun t => At (.free true true) k t ∧ t.bi = s.bi)
    (act_still (Q := fun t => t.bi = s.bi) (fun _ _ _ h => h) (release_keeps .irqOnly h2.1 rfl) h2.2) fun t3 h3 => ?_
  refine sat_bind (sampleData_bi (sampleData_keeps h3.1) h3.2) fun r h4 => ?_
  obtain ⟨v, t4⟩ := r
  obtain ⟨h4, h5⟩ := h4
  refine sat_bind (P := fun t => At (.free true true) k t ∧ 1 ≤ t.bi.val) ?_ fun t5 h6 => nextByte_keeps h6.1 h6.2
  refine sat_bind (tick_still (Q := fun t => t.bi = s.bi) (fun _ _ _ h => h) h4 h5) fun t ht => ?_
  have hbi : 1 ≤ t.bi.val := by rw [ht.2]; exact hb
  refine ⟨⟨⟨ht.1.1.1, ht.1.1.2.1, ?_, ht.1.1.2.2.2⟩, ht.1.2⟩, hbi⟩
  have hz : (t.cf.set t.bi v).b0 = t.cf.b0 := by
    generalize t.bi = b at hbi
    match b, hbi with
    | 1, _ => rfl
    | 2, _ => rfl
    | 3, _ => rfl
    | 4, _ => rfl
    | 5, _ => rfl
  show idField (t.cf.set t.bi v).b0 = 0
  rw [hz]
  exact ht.1.1.2.2.1

theorem completeStep_keeps {k : Bool} {s : State} (h : At (.free true true) k s) : Keeps (completeStep s) := by
  refine sat_bind (setGuard_keeps false h (by decide)) fun t ht => ?_
  refine sat_bind (act_keeps (o' := .free true false) (k' := false) (f := State.writeStatusDone false)
    (fun _ hu => ⟨hu.1, hu.2.1, rfl⟩) ht) fun u hu => act_inv (fun v hv => ?_) hu
  obtain ⟨h1, h2, h3, h4⟩ := at_outputs hv
  exact ⟨hv.1, h3, h4, h1, h2, hv.2.2⟩

end Sys2Proof.Machine
end

