-- ==== Sys2Proof/Laws/PerInstr.lean ====
section
/-! SUPPORT. Statements made once for each instruction: the opcode field of its encoding is its opcode (R91, R98). -/

namespace Sys2Proof.Laws.EncodeOpcode

/-- The opcode field of the encoding of an instruction is that instruction's opcode, under every configuration. -/
def Statement (i : Instr) : Prop := ∀ c : Config, (encodeFrame c i).opc = i.opcode c

theorem testReady (a : Args) : Statement (.testReady a) := fun c => encodeFrame_opc c _
theorem requestSense (a : Args) : Statement (.requestSense a) := fun c => encodeFrame_opc c _
theorem formatDrive (a : Args) : Statement (.formatDrive a) := fun c => encodeFrame_opc c _
theorem verifyTrack (a : Args) : Statement (.verifyTrack a) := fun c => encodeFrame_opc c _
theorem formatTrack (a : Args) : Statement (.formatTrack a) := fun c => encodeFrame_opc c _
theorem readBlock (a : Args) : Statement (.readBlock a) := fun c => encodeFrame_opc c _
theorem writeBlock (a : Args) : Statement (.writeBlock a) := fun c => encodeFrame_opc c _
theorem seek (a : Args) : Statement (.seek a) := fun c => encodeFrame_opc c _
theorem correction (a : Args) : Statement (.correction a) := fun c => encodeFrame_opc c _
theorem inquiry (a : Args) : Statement (.inquiry a) := fun c => encodeFrame_opc c _
theorem modeSelect (a : Args) : Statement (.modeSelect a) := fun c => encodeFrame_opc c _
theorem modeSense0 (a : Args) : Statement (.modeSense0 a) := fun c => encodeFrame_opc c _
theorem modeSense4 (a : Args) : Statement (.modeSense4 a) := fun c => encodeFrame_opc c _
theorem ship (a : Args) : Statement (.ship a) := fun c => encodeFrame_opc c _
theorem unsupported (o : Opc) (a : Args) : Statement (.unsupported o a) := fun c => encodeFrame_opc c _

end Sys2Proof.Laws.EncodeOpcode
end

