-- ==== Sys2Proof/Tests/Slice0.lean ====
section
/-! SUPPORT. Tests: ill-formed instructions and configurations that the checks refuse, words written out from the spec's
encodings, the vectors of 95_test_vectors.md (their identifiers stand in the comments; every expected result is the
vector's), and for each obligation with hypotheses a state and operands that meet them. -/

namespace Sys2Proof.Tests

open Sys2Proof Sys2Proof.Machine

/-! ## The configuration and the states of the tests -/

/-- The configuration of 95_test_vectors.md, "Conventions": the open parameters have its example values. -/
def cfg : Config where
  deviceId        := 0
  opc             := OpcodeMap.default
  msPageByte      := 2
  ms0Template     := defaultMs0Template
  ms4Template     := defaultMs4Template
  ms4Heads        := 128
  inqVs           := #v[0x00, 0x00, 0x00]
  inqVendor       := #v[0x45, 0x58, 0x41, 0x4D, 0x50, 0x4C, 0x45, 0x20]
  inqProduct1     := #v[0x50, 0x52, 0x4F, 0x44, 0x55, 0x43, 0x54, 0x31]
  inqProduct2     := #v[0x50, 0x52, 0x4F, 0x44, 0x55, 0x43, 0x54, 0x32]
  inqRevision     := #v[0x30, 0x30, 0x30, 0x31]
  sendPulsePred   := 3
  recvPulseExcess := 3
  recoveryDelay   := 7
  wdgPeriod       := 1000
  statusWait      := .level
  bootInit        := false
  polarity        := { cs := .low, a1 := .low, ack := .low, irq := .low, led := .low }

/-- The same device with ID 3. -/
def cfg3 : Config := { cfg with deviceId := 3 }

/-- The same device under `EDGE`. -/
def cfgEdge : Config := { cfg with statusWait := .edge }

/-- A peer that acknowledges at once and has released CS. -/
def prompt : Pins := { cs := .deasserted, a1 := .deasserted, ack := .asserted, data := 0x00 }

/-- A peer that holds CS and no acknowledge. -/
def holding : Pins := { cs := .asserted, a1 := .deasserted, ack := .deasserted, data := 0x00 }

/-- A peer that holds the given byte, without CS or acknowledge. -/
def lines (v : Byte) : Pins := { cs := .deasserted, a1 := .deasserted, ack := .deasserted, data := v }

/-- The same with the acknowledge. -/
def acked (v : Byte) : Pins := { lines v with ack := .asserted }

/-- The same with CS and A1. -/
def strobed (v : Byte) : Pins := { lines v with cs := .asserted, a1 := .asserted }

/-- The machine after reset under the configuration of the tests, with a prompt peer. -/
def base : State := { State.reset with cfg := cfg, pins := prompt }

/-- The frame has just been received, DeviceState is `(ready, cap)`, the collaborator will answer `rs`. -/
def cmd (f : Frame) (ready : Bool) (cap : BitVec 32) (rs : List CollReply) : State :=
  { base with cf := f, led := true, phase := .dispatching .start, dsReady := ready, dsCapacity := cap, replies := rs }

/-- The answers of a collaborator: a success, a failure, a capacity. -/
def yes : CollReply := { ok := true, capacity := 0, data := Vector.replicate 512 0x00 }
def no : CollReply := { ok := false, capacity := 0, data := Vector.replicate 512 0x00 }
def blocks (n : Nat) : CollReply := { ok := true, capacity := n, data := Vector.replicate 512 0x00 }

/-- The bytes the engine has driven, the status byte last. -/
def driven (s : State) : List Byte :=
  s.log.reverse.filterMap fun e => match e with | .droveData v => some v | _ => none

/-- The calls of the collaborator. -/
def calls (s : State) : List Event :=
  s.log.reverse.filter fun e => e.isAccess || e.isInit || (match e with | .collCapacity _ => true | _ => false)

/-- What the peer and the collaborator saw of one step, and DeviceState after it. -/
def seen (o : Host.Outcome State Fault Refusal) : Option (List Byte × List Event × Bool × BitVec 32) :=
  match o with
  | .next t    => some (driven t, calls t, t.dsReady, t.dsCapacity)
  | .fault _   => none
  | .refused _ => none

/-- The record of a step, the earliest entry first, and the phase after it. -/
def recorded (o : Host.Outcome State Fault Refusal) : Option (List Event × Phase) :=
  match o with
  | .next t    => some (t.log.reverse, t.phase)
  | .fault _   => none
  | .refused _ => none

/-! ## Well-formedness: each check refuses an ill-formed term -/

theorem test_wf_modeSense0_page : (Instr.modeSense0 ⟨0x000400, 0, 0⟩).wf cfg = false := by decide
theorem test_wf_modeSense4_page : (Instr.modeSense4 ⟨0x040000, 0, 0⟩).wf cfg = false := by decide
theorem test_wf_unsupported_assigned : (Instr.unsupported 0x08 ⟨0, 0, 0⟩).wf cfg = false := by decide
theorem test_wf_unsupported_page0 : (Instr.unsupported 0x1A ⟨0x3F003F, 0, 0⟩).wf cfg = false := by decide
theorem test_wf_unsupported_page4 : (Instr.unsupported 0x1A ⟨0x000400, 0, 0⟩).wf cfg = false := by decide
theorem test_ok_distinct : ({ cfg with opc := { OpcodeMap.default with ship := 0x00 } } : Config).ok = false := by decide
theorem test_ok_page_low : ({ cfg with msPageByte := 0 } : Config).ok = false := by decide
theorem test_ok_page_high : ({ cfg with msPageByte := 4 } : Config).ok = false := by decide
theorem test_ok_heads : ({ cfg with ms4Heads := 0 } : Config).ok = false := by decide
theorem test_ok_default : Config.default.ok = true := by decide

/-! ## Decoding: bytes written out from R91 and the table of R98 (V-ENC, and the frames of 2.7 and 2.8) -/

-- 08 00 00 0A 02 00: V-ENC-1
theorem test_decode_readBlock : decode cfg [0x08, 0x00, 0x00, 0x0A, 0x02, 0x00] = .ok (.readBlock ⟨10, 2, 0⟩) := by rfl
-- 68 00 00 63 05 00 on device 3: V-ENC-2
theorem test_decode_readBlock_id : decode cfg3 [0x68, 0x00, 0x00, 0x63, 0x05, 0x00] = .ok (.readBlock ⟨99, 5, 0⟩) := by
  rfl
-- FB 00 00 00 00 00 on device 7: V-ENC-3, V-ENC-4
theorem test_decode_ship :
    decode { cfg with deviceId := 7 } [0xFB, 0x00, 0x00, 0x00, 0x00, 0x00] = .ok (.ship ⟨0, 0, 0⟩) := by rfl
theorem test_stored_opcode : storedOpcode 0xFB = 0x1B := by rfl
-- V-ENC-5
theorem test_parser : (⟨0x08, 0x12, 0x34, 0x56, 0x02, 0xAA⟩ : Frame).args = ⟨0x123456, 2, 0xAA⟩ := by rfl
-- V-ENC-6
theorem test_decode_writeBlock :
    decode cfg [0x0A, 0xFF, 0xFF, 0xFF, 0xFF, 0x00] = .ok (.writeBlock ⟨16777215, 255, 0⟩) := by rfl
-- V-ENC-7
theorem test_decode_modeSense4 :
    decode cfg [0x1A, 0x00, 0x04, 0x00, 0xFF, 0x00] = .ok (.modeSense4 ⟨0x000400, 255, 0⟩) := by rfl
-- V-ENC-8
theorem test_decode_modeSense0 :
    decode cfg [0x1A, 0x04, 0x00, 0x00, 0x00, 0x00] = .ok (.modeSense0 ⟨0x040000, 0, 0⟩) := by rfl
-- V-ENC-9: the 19 opcodes that R99 leaves unassigned
theorem test_decode_unassigned :
    ∀ o ∈ ([0x01, 0x02, 0x07, 0x09, 0x0C, 0x0E, 0x0F, 0x10, 0x11, 0x13, 0x14, 0x16, 0x17, 0x18, 0x19, 0x1C, 0x1D, 0x1E,
      0x1F] : List Opc),
      decodeFrame cfg ⟨o.setWidth 8, 0, 0, 0, 0, 0⟩ = .unsupported o ⟨0, 0, 0⟩ := by decide
theorem test_decode_testReady : decode cfg [0x00, 0x00, 0x00, 0x00, 0x00, 0x00] = .ok (.testReady ⟨0, 0, 0⟩) := by rfl
theorem test_decode_requestSense : decode cfg [0x03, 0, 0, 0, 0x04, 0] = .ok (.requestSense ⟨0, 4, 0⟩) := by rfl
theorem test_decode_formatDrive : decode cfg [0x04, 0, 0, 0, 0, 0] = .ok (.formatDrive ⟨0, 0, 0⟩) := by rfl
theorem test_decode_verifyTrack : decode cfg [0x05, 0, 0, 0, 0, 0] = .ok (.verifyTrack ⟨0, 0, 0⟩) := by rfl
theorem test_decode_formatTrack : decode cfg [0x06, 0, 0, 0, 0, 0] = .ok (.formatTrack ⟨0, 0, 0⟩) := by rfl
theorem test_decode_seek :
    decode cfg [0x0B, 0xFF, 0xFF, 0xFF, 0xFF, 0xFF] = .ok (.seek ⟨0xFFFFFF, 0xFF, 0xFF⟩) := by rfl
theorem test_decode_correction : decode cfg [0x0D, 0, 0, 0, 0, 0] = .ok (.correction ⟨0, 0, 0⟩) := by rfl
theorem test_decode_inquiry : decode cfg [0x12, 0, 0, 0, 0x1F, 0] = .ok (.inquiry ⟨0, 31, 0⟩) := by rfl
theorem test_decode_modeSelect : decode cfg [0x15, 0, 0, 0, 0x0C, 0] = .ok (.modeSelect ⟨0, 12, 0⟩) := by rfl
-- V-MSX-1
theorem test_decode_modeSense_page :
    decode cfg [0x1A, 0x00, 0x3F, 0x00, 0x00, 0x00] = .ok (.unsupported 0x1A ⟨0x003F00, 0, 0⟩) := by rfl
-- V-RX-2, and a frame that is not six bytes long (R101)
theorem test_decode_foreign : decode cfg [0x28, 0, 0, 0, 0, 0] = .error .foreignId := by rfl
theorem test_decode_length : decode cfg [0x08, 0, 0, 0, 0] = .error .wrongLength := by rfl
-- the numbering of the table: byte 0 is the most significant byte of a 48-bit word (V-ENC-1)
theorem test_decode_table_word : decodeTableWord 48 0x0800000A0200 = some (.readBlock ⟨10, 2, 0⟩) := by rfl
-- V-ENC-1 and V-ENC-3, the other way
theorem test_encode_readBlock : encode cfg (.readBlock ⟨10, 2, 0⟩) = [0x08, 0x00, 0x00, 0x0A, 0x02, 0x00] := by rfl
theorem test_encode_ship :
    encode { cfg with deviceId := 7 } (.ship ⟨0, 0, 0⟩) = [0xFB, 0x00, 0x00, 0x00, 0x00, 0x00] := by rfl

/-! ## The commands, one step each (2.7 to 2.9) -/

-- V-NOOP-1, V-NOOP-5
theorem test_seek : seen (step (cmd ⟨0x0B, 0xFF, 0xFF, 0xFF, 0xFF, 0xFF⟩ true 100 [])) = some ([0x00], [], true, 100) := by
  decide
theorem test_seek_not_ready :
    seen (step (cmd ⟨0x0B, 0, 0, 0, 0, 0⟩ false 5 [no])) = some ([0x02], [.collInit false], false, 5) := by decide
-- V-NOOP-2
theorem test_correction : seen (step (cmd ⟨0x0D, 0, 0, 0, 0, 0⟩ true 100 [])) = some ([0x00], [], true, 100) := by decide
-- V-NOOP-3
theorem test_modeSelect : seen (step (cmd ⟨0x15, 0, 0, 0, 0x0C, 0⟩ true 100 [])) = some ([0x00], [], true, 100) := by
  decide
-- V-NOOP-4
theorem test_ship : seen (step (cmd ⟨0x1B, 0, 0, 0, 0, 0⟩ true 100 [])) = some ([0x00], [], true, 100) := by decide
-- V-INIT-2, V-INIT-4
theorem test_testReady :
    seen (step (cmd ⟨0, 0, 0, 0, 0, 0⟩ true 100 [no])) = some ([0x02], [.collInit false], false, 100) := by decide
theorem test_testReady_prologue :
    seen (step (cmd ⟨0, 0, 0, 0, 0, 0⟩ false 5 [yes, blocks 100, no])) =
      some ([0x02], [.collInit true, .collCapacity 100, .collInit false], false, 100) := by decide
-- V-INIT-5
theorem test_formatDrive :
    seen (step (cmd ⟨0x04, 0, 0, 0, 0, 0⟩ true 7 [yes, blocks 100])) =
      some ([0x00], [.collInit true, .collCapacity 100], true, 100) := by decide
theorem test_verifyTrack :
    seen (step (cmd ⟨0x05, 0, 0, 0, 0, 0⟩ true 7 [yes, blocks 100])) =
      some ([0x00], [.collInit true, .collCapacity 100], true, 100) := by decide
theorem test_formatTrack :
    seen (step (cmd ⟨0x06, 0, 0, 0, 0, 0⟩ true 7 [yes, blocks 100])) =
      some ([0x00], [.collInit true, .collCapacity 100], true, 100) := by decide
-- V-UNS-1, V-MSX-1
theorem test_unsupported : seen (step (cmd ⟨0x1F, 0, 0, 0, 0, 0⟩ true 100 [])) = some ([0x02], [], true, 100) := by decide
theorem test_unsupported_page : seen (step (cmd ⟨0x1A, 0, 0x3F, 0, 0, 0⟩ true 100 [])) = some ([0x02], [], true, 100) := by
  decide
-- V-RS-6; V-RS-3 with the stale capacity of V-RS-7
theorem test_requestSense :
    seen (step (cmd ⟨0x03, 0, 0, 0, 0x04, 0⟩ true 100 [yes, blocks 0x01234567])) =
      some ([0x80, 0x23, 0x45, 0x67, 0x00], [.collInit true, .collCapacity 0x01234567], true, 0x01234567) := by decide
theorem test_requestSense_stale :
    seen (step (cmd ⟨0x03, 0, 0, 0, 0x04, 0⟩ true 100 [no])) =
      some ([0x80, 0x00, 0x00, 0x64, 0x00], [.collInit false], false, 100) := by decide
-- V-INQ-2, V-INQ-4
theorem test_inquiry :
    seen (step (cmd ⟨0x12, 0, 0, 0, 0x1F, 0⟩ true 100 [])) =
      some ([0x00, 0x00, 0x01, 0x00, 0x1F, 0x00, 0x00, 0x00, 0x45, 0x58, 0x41, 0x4D, 0x50, 0x4C, 0x45, 0x20,
        0x50, 0x52, 0x4F, 0x44, 0x55, 0x43, 0x54, 0x31, 0x50, 0x52, 0x4F, 0x44, 0x55, 0x43, 0x54, 0x00],
        [], true, 100) := by decide
theorem test_inquiry_padded :
    seen (step (cmd ⟨0x12, 0, 0, 0, 0x28, 0⟩ true 100 [])) =
      some ([0x00, 0x00, 0x01, 0x00, 0x1F, 0x00, 0x00, 0x00, 0x45, 0x58, 0x41, 0x4D, 0x50, 0x4C, 0x45, 0x20,
        0x50, 0x52, 0x4F, 0x44, 0x55, 0x43, 0x54, 0x31, 0x50, 0x52, 0x4F, 0x44, 0x55, 0x43, 0x54, 0x32,
        0x30, 0x30, 0x30, 0x31, 0x00, 0x00, 0x00, 0x00, 0x00], [], true, 100) := by decide
-- V-MS0-1
theorem test_modeSense0 :
    seen (step (cmd ⟨0x1A, 0, 0, 0, 0, 0⟩ true 0x001E8480 [])) =
      some ([0x00, 0x0E, 0x00, 0x08, 0x00, 0x1E, 0x84, 0x80, 0x00, 0x00, 0x02, 0x00, 0x00, 0x00, 0x00, 0x00, 0x00],
        [], true, 0x001E8480) := by decide
-- V-MS4-1, V-MS4-4
theorem test_modeSense4 :
    seen (step (cmd ⟨0x1A, 0, 0x04, 0, 0, 0⟩ true 0x001E8480 [])) =
      some ([0x04, 0x16, 0x00, 0x3D, 0x09, 0x80] ++ List.replicate 19 0x00, [], true, 0x001E8480) := by decide
theorem test_modeSense4_wrap :
    seen (step (cmd ⟨0x1A, 0, 0x04, 0, 0, 0⟩ true 0xFFFFFFFF [])) =
      some ([0x04, 0x16, 0xFF, 0xFF, 0xFF, 0x80] ++ List.replicate 19 0x00, [], true, 0xFFFFFFFF) := by decide +kernel

/-- The length of what the peer received, and the rest of what `seen` gives. -/
def counted (o : Host.Outcome State Fault Refusal) : Option (Nat × List Event × Bool) :=
  (seen o).map fun x => (x.1.length, x.2.1, x.2.2.1)

-- V-RD-6 with LBA 99 (V-RD-2): 512 bytes and the status
set_option maxRecDepth 20000 in
theorem test_readBlock :
    counted (step (cmd ⟨0x08, 0, 0, 0x63, 0x01, 0⟩ true 100 [no, yes])) =
      some (513, [.collRead 99 false, .collRead 99 true], true) := by decide +kernel
-- V-RD-3
theorem test_readBlock_range :
    seen (step (cmd ⟨0x08, 0, 0, 0x63, 0x05, 0⟩ true 100 [])) = some ([0x02], [], true, 100) := by decide
-- V-WR-1 with a peer that holds 00 on the lines
set_option maxRecDepth 20000 in
theorem test_writeBlock :
    seen (step (cmd ⟨0x0A, 0, 0, 0x05, 0x01, 0⟩ true 100 [yes])) =
      some ([0x00], [.collWrite 5 (List.replicate 512 0x00) true], true, 100) := by decide +kernel
-- V-WR-3
theorem test_writeBlock_range :
    seen (step (cmd ⟨0x0A, 0, 0, 0x63, 0x02, 0⟩ true 100 [])) = some ([0x02], [], true, 100) := by decide

/-- The range check of a block command. -/
def inRange (cap : BitVec 32) (lba : Lba) (len : Byte) : Bool := rangeOk ⟨lba, len, 0⟩ { base with dsCapacity := cap }

-- V-RNG-1 to V-RNG-11
theorem test_range :
    [inRange 100 10 2, inRange 100 99 1, inRange 100 99 5, inRange 100 100 1, inRange 100 100 0, inRange 100 101 0,
      inRange 0 0 0, inRange 0 0 1, inRange 0x01000000 0xFFFFFF 1, inRange 0x01000000 0xFFFFFF 2,
      inRange 0x01000100 0xFFFFFF 255] =
    [true, true, false, false, true, false, true, false, true, false, true] := by decide +kernel

/-! ## The Bus Signal Layer, the transfers and the status handshake (2.2, 2.3, 2.5) -/

-- V-BUS-1
theorem test_driveData :
    (driveData 0xA5 base).state.dOut = .drive 0xA5 ∧
      (List.finRange 8).map (dataLine 0xA5) = [true, false, true, false, false, true, false, true] := by decide
-- V-BUS-2, V-BUS-5
theorem test_release :
    (release { d := true, drq := false, irq := false }
      { base with dOut := .drive 0xA5, irqOut := .asserted }).state.dOut = .released ∧
    (release .all { base with dOut := .drive 2, irqOut := .asserted }).state.linesReleased := by decide
-- V-BUS-3
theorem test_pulseLow : (pulseLow 4 base).state.drqOut = .released ∧ (pulseLow 4 base).state.log = [.pulsedDrq 4] := by
  decide
-- V-DMA-1
theorem test_send :
    (send 3 .status { base with buf := [(0, 0x80), (2, 0x64)] }).state.log.reverse =
      [.guardSet true, .droveData 0x80, .pulsedDrq 4, .waited .ackAsserted, .droveData 0x00, .pulsedDrq 4,
        .waited .ackAsserted, .droveData 0x64, .pulsedDrq 4, .waited .ackAsserted, .released .dma, .guardSet false] := by
  decide
-- V-DMA-2
theorem test_send_nothing : (send 0 .status base).state.log.reverse = [.guardSet true, .released .dma, .guardSet false] := by
  decide
-- V-DMA-3
theorem test_receive :
    let s := receive 2
      { base with env := [lines 0x00, lines 0x00, lines 0x5A, lines 0x5A, acked 0x5A, lines 0xC3, lines 0xC3, lines 0xC3,
        acked 0xC3].map .peer }
    s.state.buf = [(0, 0x5A), (1, 0xC3)] ∧
      s.state.log.reverse =
        [.guardSet true, .pulsedDrq 8, .sampledData 0x5A, .waited .ackAsserted, .pulsedDrq 8, .sampledData 0xC3,
          .waited .ackAsserted, .released .dma, .guardSet false] := by decide
-- V-DMA-5: one byte of an Inquiry, no acknowledge
theorem test_send_hangs :
    recorded (step { cmd ⟨0x12, 0, 0, 0, 0x01, 0⟩ true 100 [] with pins := holding }) =
      some ([.guardSet true, .droveData 0x00, .pulsedDrq 4], .dispatching (.sendAck 0 1 .status)) := by decide
-- V-DMA-6
theorem test_receive_samples_first :
    Memory.read (receive 1
      { base with env := [lines 0x01, lines 0x01, lines 0x01, lines 0x02, lines 0x02, acked 0x02].map .peer }).state.buf 0 = 0x01 := by
  decide
-- V-ST-1: CS asserted at the first two samples of the wait
theorem test_status :
    let s := (sendStatus 0x00 { base with
      led := true, env := [lines 0, lines 0, lines 0, lines 0, lines 0, holding, holding, lines 0].map .peer }).state
    s.log.reverse =
        [.ledSet false, .guardSet true, .droveData 0x00, .assertedIrq, .waited .csDeasserted, .released .all,
          .guardSet false] ∧
      s.phase = .idle ∧ s.statusDone = true ∧ s.linesReleased := by decide
-- V-ST-4: a Seek whose status is never taken
theorem test_status_hangs :
    recorded (step { cmd ⟨0x0B, 0, 0, 0, 0, 0⟩ true 100 [] with pins := holding }) =
      some ([.ledSet false, .guardSet true, .droveData 0x00, .assertedIrq], .sendingStatus .deasserted) := by decide
-- V-ST-3 under EDGE: with CS deasserted all along the wait does not end
theorem test_status_edge :
    recorded (step { cmd ⟨0x0B, 0, 0, 0, 0, 0⟩ true 100 [] with cfg := cfgEdge }) =
      some ([.ledSet false, .guardSet true, .droveData 0x00, .assertedIrq], .sendingStatus .asserted) := by decide

/-! ## The Storage Access Layer (2.6) -/

/-- The result of `Initialize` from DeviceState `(ready, cap)` with the given answers, and DeviceState after it. -/
def initialized (ready : Bool) (cap : BitVec 32) (rs : List CollReply) : Option (Bool × Bool × BitVec 32) :=
  match initDevice { base with dsReady := ready, dsCapacity := cap, replies := rs } with
  | .done (ok, t) => some (ok, t.dsReady, t.dsCapacity)
  | .halt _       => none

-- V-STO-8, V-STO-9, V-STO-11
theorem test_initialize :
    initialized false 5 [yes, blocks 100] = some (true, true, 100) ∧
    initialized true 100 [no] = some (false, false, 100) ∧
    initialized true 100 [yes, blocks 200] = some (true, true, 200) := by decide

/-- The calls of a block read with the given answers, its result, and whether the device is ready after it. -/
def reading (rs : List CollReply) : Option (List Event × Bool × Bool) :=
  match readBlock 7 { base with dsReady := true, dsCapacity := 100, replies := rs } with
  | .done (ok, t) => some (calls t, ok, t.dsReady)
  | .halt _       => none

-- R213, rows 3, 5 and 6
set_option maxRecDepth 20000 in
theorem test_retry :
    reading [no, no, yes] = some ([.collRead 7 false, .collRead 7 false, .collRead 7 true], true, true) ∧
    reading [no, no, no, no] =
      some ([.collRead 7 false, .collRead 7 false, .collRead 7 false, .collInit false], false, false) ∧
    reading [no, no, no, yes, blocks 100, no, yes, blocks 100, no] =
      some ([.collRead 7 false, .collRead 7 false, .collRead 7 false, .collInit true, .collCapacity 100,
        .collRead 7 false, .collInit true, .collCapacity 100, .collRead 7 false], false, false) := by decide +kernel

/-! ## Reception, one step each (2.4) -/

-- V-RX-1 and V-RX-4: the poll
theorem test_idle :
    recorded (step { base with pins := strobed 0x0B }) =
      some ([.wdgService, .sampledLines .asserted .asserted], .addressMatch) ∧
    recorded (step { base with pins := holding }) =
      some ([.wdgService, .sampledLines .asserted .deasserted], .idle) := by decide
-- V-RX-6, V-RX-7
theorem test_addressMatch :
    recorded (step { base with cfg := cfg3, phase := .addressMatch, pins := strobed 0x68 }) =
      some ([.sampledData 0x68, .guardSet true, .ledSet true], .receivingBytes false) ∧
    recorded (step { base with cfg := cfg3, phase := .addressMatch, pins := strobed 0x08 }) =
      some ([.sampledData 0x08], .idle) := by decide
-- V-RX-1: the last byte
theorem test_receivingBytes :
    recorded (step { base with
      phase := .receivingBytes false, bi := 5, led := true, guard := true, pins := strobed 0x00 }) =
      some ([.assertedIrq, .waited .csAsserted, .released .irqOnly, .sampledData 0x00], .complete) := by decide
-- V-RX-5: the strobe that never comes
theorem test_receivingBytes_hangs :
    recorded (step { base with phase := .receivingBytes false, bi := 3, led := true, guard := true }) =
      some ([.assertedIrq], .receivingBytes true) := by decide
-- V-RX-1: the end
theorem test_complete :
    recorded (step { base with phase := .complete, led := true, guard := true }) =
      some ([.guardSet false], .dispatching .start) := by decide

/-! ## Witnesses: for each obligation with hypotheses, a state and operands that meet all of them -/

/-- A ready device of 100 blocks with a prompt peer. -/
def able : State := { base with dsReady := true, dsCapacity := 100 }

/-- The same under `EDGE`. -/
def ableEdge : State := { able with cfg := cfgEdge }

/-- The same with a peer whose acknowledge rests deasserted: enough for a command without a transfer. -/
def silent : State := { able with pins := lines 0 }

/-- An operand part. -/
def ops (lba : Lba) (len : Byte) : Args := ⟨lba, len, 0⟩

theorem witness_DecodeOfEncodeIsTheCommand :
    cfg.ok = true ∧ (Instr.modeSense4 ⟨0x000400, 255, 1⟩).wf cfg = true ∧ (Instr.unsupported 0x1A ⟨0x003F00, 0, 0⟩).wf cfg = true ∧
      (Instr.unsupported 0x1F ⟨0, 0, 0⟩).wf cfg = true ∧ (Instr.writeBlock ⟨0xFFFFFF, 255, 255⟩).wf cfg = true := by decide

theorem witness_EncodeOfDecodeIsTheFrame :
    cfg.ok = true ∧ decode cfg [0x08, 0x00, 0x00, 0x0A, 0x02, 0x00] = .ok (.readBlock ⟨10, 2, 0⟩) := by
  constructor <;> rfl

theorem witness_DecodeRefusesByLengthAndId :
    decode cfg [] = .error .wrongLength ∧ decode cfg [0, 0, 0, 0, 0, 0, 0] = .error .wrongLength ∧
      decode cfg [0x20, 0, 0, 0, 0, 0] = .error .foreignId ∧ (0x20 : Byte).toNat / 32 ≠ cfg.deviceId.toNat := by
  refine ⟨rfl, rfl, rfl, by decide⟩

theorem witness_ParserReadsTheFields : cfg.ok = true := by decide

theorem witness_RowsOfTheTableSelectTheirCommands :
    cfg.ok = true ∧
      ([0x00, 0x03, 0x04, 0x05, 0x06, 0x08, 0x0A, 0x0B, 0x0D, 0x12, 0x15, 0x1A, 0x1B] : List Byte).map
        (fun b => (⟨b, 0, 0, 0, 0, 0⟩ : Frame).opc) = cfg.opc.assigned ∧
      (⟨0x1A, 0, 0x00, 0, 0, 0⟩ : Frame).page cfg = 0x00 ∧ (⟨0x1A, 0, 0x04, 0, 0, 0⟩ : Frame).page cfg = 0x04 := by decide

theorem witness_UnsupportedIsEveryOtherEncoding :
    cfg.ok = true ∧ (⟨0x01, 0, 0, 0, 0, 0⟩ : Frame).opc ∉ cfg.opc.assigned ∧
      (⟨0x1A, 0, 0x05, 0, 0, 0⟩ : Frame).opc = cfg.opc.modeSense ∧ (⟨0x1A, 0, 0x05, 0, 0, 0⟩ : Frame).page cfg ≠ 0x00 ∧
      (⟨0x1A, 0, 0x05, 0, 0, 0⟩ : Frame).page cfg ≠ 0x04 := by decide

theorem witness_StepRunsTheDecodedCommand :
    let i := Instr.readBlock ⟨10, 2, 0⟩
    let s := cmd (encodeFrame cfg i) true 100 []
    s.cfg.ok = true ∧ i.wf s.cfg = true ∧ s.phase = .dispatching .start ∧ s.cf = encodeFrame s.cfg i ∧
      State.reset.cfg.ok = true ∧ State.reset.cfg = Config.default ∧
      decodeTableWord 48 0x0800000A0200 = some i := by
  refine ⟨by decide, by decide, rfl, rfl, by decide, rfl, rfl⟩

theorem witness_StepRefusesAmbiguousOpcodes :
    ¬ ({ cfg with opc := { OpcodeMap.default with ship := 0x00 } } : Config).opc.assigned.Nodup := by decide

theorem witness_NoOpClassOnlySendsSuccess :
    Instr.ship (ops 0 0) ∈ [Instr.seek (ops 0 0), .correction (ops 0 0), .modeSelect (ops 0 0), .ship (ops 0 0)] ∧
      StatusEnds silent ∧ (prologued silent).dsReady = true ∧
      StatusEnds { base with replies := [yes, blocks 100] } ∧
      (prologued { base with replies := [yes, blocks 100] }).dsReady = true := by decide

theorem witness_InitializeClassSucceedsIffInitDoes :
    Instr.formatTrack (ops 0 0) ∈
        [Instr.testReady (ops 0 0), .formatDrive (ops 0 0), .verifyTrack (ops 0 0), .formatTrack (ops 0 0)] ∧
      StatusEnds { silent with replies := [yes, blocks 100] } ∧
      (prologued { silent with replies := [no] }).dsReady = true ∧
      (nextReply (prologued { silent with replies := [yes, blocks 100] })).ok = true ∧
      (nextReply (prologued { silent with replies := [no] })).ok = false := by decide

theorem witness_UnsupportedOnlySendsError : StatusEnds silent ∧ (prologued silent).dsReady = true := by decide

theorem witness_RequestSenseSendsTheCapacity :
    Cooperative { able with replies := [no] } ∧ (prologued { able with replies := [no] }).dsReady = true := by decide

theorem witness_InquirySendsTheRecord :
    Cooperative able ∧ (prologued able).dsReady = true ∧ 35 < (ops 0 37).len.toNat ∧ 36 < (ops 0 37).len.toNat := by decide

theorem witness_ModeSenseSendsItsWholePage : Cooperative able ∧ (prologued able).dsReady = true := by decide

theorem witness_SenseResponseLayout : 4 ≤ 4 ∧ 4 ≤ 5 ∧ (4 : Nat) < 5 := by decide

theorem witness_RangeErrorTouchesNothing :
    Instr.writeBlock (ops 100 1) ∈ [Instr.readBlock (ops 100 1), .writeBlock (ops 100 1)] ∧ StatusEnds silent ∧
      (prologued silent).dsReady = true ∧
      (prologued silent).dsCapacity.toNat < (ops 100 1).lba.toNat + (ops 100 1).len.toNat ∧
      (prologued silent).dsCapacity.toNat < (ops 101 0).lba.toNat + (ops 101 0).len.toNat := by decide

theorem witness_ReadBlockSendsEveryBlock :
    let s := { able with replies := [yes] }
    Cooperative s ∧ (prologued s).dsReady = true ∧
      (ops 99 1).lba.toNat + (ops 99 1).len.toNat ≤ (prologued s).dsCapacity.toNat ∧
      (prologued s).replies = [yes] ++ [] ∧ [yes].length = (ops 99 1).len.toNat ∧ ∀ r ∈ [yes], r.ok = true := by
  refine ⟨by decide, rfl, by decide, rfl, rfl, by decide⟩

theorem witness_ReadBlockStopsAtAFatalBlock :
    let s := { able with replies := [yes, no, no, no, no] }
    Cooperative s ∧ (prologued s).dsReady = true ∧
      (ops 10 3).lba.toNat + (ops 10 3).len.toNat ≤ (prologued s).dsCapacity.toNat ∧
      (prologued s).replies = [yes] ++ no :: no :: no :: no :: [] ∧ [yes].length < (ops 10 3).len.toNat ∧
      (∀ r ∈ [yes], r.ok = true) ∧ no.ok = false := by
  refine ⟨by decide, rfl, by decide, rfl, by decide, by decide, rfl⟩

theorem witness_ReadBlockSendsWholeBlocks :
    Cooperative able ∧ (prologued able).dsReady = true ∧
      (ops 100 0).lba.toNat + (ops 100 0).len.toNat ≤ (prologued able).dsCapacity.toNat := by decide

theorem witness_WriteBlockWritesWhatItReceives :
    let s := { able with replies := [yes] }
    Cooperative s ∧ (prologued s).dsReady = true ∧ s.dOut = .released ∧
      (ops 99 1).lba.toNat + (ops 99 1).len.toNat ≤ (prologued s).dsCapacity.toNat ∧
      (prologued s).replies = [yes] ++ [] ∧ [yes].length = (ops 99 1).len.toNat ∧ ∀ r ∈ [yes], r.ok = true := by
  refine ⟨by decide, rfl, rfl, by decide, rfl, rfl, by decide⟩

theorem witness_WriteBlockStopsAtAFatalBlock :
    let s := { able with replies := [yes, no, no, no, no] }
    Cooperative s ∧ (prologued s).dsReady = true ∧ s.dOut = .released ∧
      (ops 5 2).lba.toNat + (ops 5 2).len.toNat ≤ (prologued s).dsCapacity.toNat ∧
      (prologued s).replies = [yes] ++ no :: no :: no :: no :: [] ∧ [yes].length < (ops 5 2).len.toNat ∧
      (∀ r ∈ [yes], r.ok = true) ∧ no.ok = false := by
  refine ⟨by decide, rfl, rfl, by decide, rfl, by decide, by decide, rfl⟩

theorem witness_WriteBlockReceivesWholeBlocks :
    Cooperative able ∧ (prologued able).dsReady = true ∧ able.dOut = .released ∧
      (ops 99 1).lba.toNat + (ops 99 1).len.toNat ≤ (prologued able).dsCapacity.toNat := by decide

theorem witness_NotReadyFailsEveryCommand :
    let s := { base with pins := lines 0, replies := [no] }
    StatusEnds s ∧ s.dsReady = false ∧ (nextReply s).ok = false := by decide

theorem witness_EveryCommandEndsInOneStatus :
    Cooperative { able with env := [.peer holding, .peer prompt] } ∧ able.dOut = .released := by decide

theorem witness_EdgeCommandsEndWhenTheStatusIsRead :
    let s := { ableEdge with env := [.peer (lines 0), .peer prompt] }
    s.cfg.ok = true ∧ s.cfg.statusWait = .edge ∧ NoReset s ∧ s.dOut = .released ∧
      (restPins s.pins s.env).ack = .asserted ∧ s.pins.cs = .deasserted ∧
      (∀ e ∈ s.env, ∃ p : Pins, e = .peer p ∧ p.cs = .deasserted) ∧ holding.cs = .asserted ∧
      prompt.cs = .deasserted := by
  refine ⟨by decide, by decide, by decide, by decide, by decide, by decide, ?_, by decide, by decide⟩
  intro e he
  simp only [List.mem_cons, List.not_mem_nil, or_false] at he
  rcases he with rfl | rfl
  · exact ⟨_, rfl, rfl⟩
  · exact ⟨_, rfl, rfl⟩

/-- A command that is left in the acknowledge wait of its first byte. -/
def waiting : State := { able with pins := holding }

theorem witness_WaitsResumeTheCommand :
    waiting.cfg.ok = true ∧ NoReset waiting ∧
      ∃ t, exec (.inquiry (ops 0 1)) waiting = .next t ∧ t.phase ≠ .idle := by
  refine ⟨by decide, by decide, _, rfl, by decide⟩

theorem witness_CommandsHangOnlyInTheWaits :
    NoReset waiting ∧ ∃ t, exec (.inquiry (ops 0 1)) waiting = .next t := by
  refine ⟨by decide, _, rfl⟩

theorem witness_PeerTimingHasNoPart :
    let u := { able with env := [.peer holding, .peer prompt] }
    Cooperative able ∧ Cooperative u ∧ able.engine = u.engine ∧
      (∃ t v, exec (.seek (ops 0 0)) able = .next t ∧ exec (.seek (ops 0 0)) u = .next v) ∧
      (∀ a, Instr.seek (ops 0 0) ≠ .writeBlock a) ∧ (ops 100 0).len = 0 ∧
      (prologued able).dsCapacity.toNat < (ops 100 1).lba.toNat + (ops 100 1).len.toNat ∧
      (prologued { base with replies := [no] }).dsReady = false := by
  refine ⟨by decide, by decide, rfl, ⟨_, _, rfl, rfl⟩, ?_, by decide, by decide, by decide⟩
  intro a h
  cases h

theorem witness_FrameOfCommandsWithoutData :
    (NoReset waiting ∧ waiting.dsReady = true ∧ (∃ t, exec (.seek (ops 0 0)) waiting = .next t) ∧
      ∃ a o, Instr.seek (ops 0 0) ∈ [Instr.seek a, .correction a, .modeSelect a, .ship a, .unsupported o a]) ∧
    (∃ t, exec (.verifyTrack (ops 0 0)) { waiting with replies := [no] } = .next t ∧ t.dsReady = false) ∧
      ∃ a o, Instr.verifyTrack (ops 0 0) ∈ [.seek a, .correction a, .modeSelect a, .ship a, .unsupported o a, .testReady a,
        .formatDrive a, .verifyTrack a, .formatTrack a] := by
  refine ⟨⟨by decide, rfl, ⟨_, rfl⟩, ops 0 0, 0, by decide⟩, ⟨_, rfl, by decide⟩, ops 0 0, 0, by decide⟩

theorem witness_FrameOfResponses :
    NoReset waiting ∧ waiting.dsReady = true ∧ (∃ t, exec (.modeSense4 (ops 0 0)) waiting = .next t) ∧
      (∃ t, exec (.requestSense (ops 0 5)) { waiting with replies := [no] } = .next t ∧ t.dsReady = false) ∧
      Instr.modeSense4 (ops 0 0) ∈
        [Instr.requestSense (ops 0 0), .inquiry (ops 0 0), .modeSense0 (ops 0 0), .modeSense4 (ops 0 0)] := by
  refine ⟨by decide, rfl, ⟨_, rfl⟩, ⟨_, rfl, by decide⟩, by decide⟩

theorem witness_FrameOfBlockCommands :
    NoReset waiting ∧ waiting.dsReady = true ∧
      waiting.dsCapacity.toNat < (ops 100 1).lba.toNat + (ops 100 1).len.toNat ∧
      ∃ t, exec (.writeBlock (ops 100 1)) waiting = .next t := by
  refine ⟨by decide, rfl, by decide, _, rfl⟩

theorem witness_PrimitivesSetTheirDrivers : NoReset { able with env := [.peer holding] } := by decide

theorem witness_SendDrivesTheBufferInOrder : NoReset able ∧ (restPins able.pins able.env).ack = .asserted := by decide

theorem witness_ReceiveStoresWhatItSamples :
    NoReset able ∧ able.dOut = .released ∧ (restPins able.pins able.env).ack = .asserted := by decide

theorem witness_TransfersLeaveTheLinesReleased :
    NoReset able ∧ (∃ t, send 2 .status able = .done t) ∧ ∃ t, receive 2 able = .done t := by
  refine ⟨by decide, ⟨_, rfl⟩, _, rfl⟩

theorem witness_ReceiveSamplesBeforeTheAcknowledge :
    let s := { able with env := [lines 1, lines 1, lines 1, lines 2, lines 2, acked 2].map .peer }
    s.dOut = .released ∧ (∀ w ∈ [lines 2], w.ack = .deasserted) ∧ (acked 2).ack = .asserted ∧
      EnvEvent.watchdog ∉ ([] : List EnvEvent) ∧
      s.env = [.peer (lines 1), .peer (lines 1), .peer (lines 1), .peer (lines 2)] ++ [lines 2].map .peer ++
        [.peer (acked 2)] ++ [] := by
  decide

theorem witness_StatusHandshakeUnderLevel :
    let s := { able with env := [.peer holding, .peer prompt] }
    NoReset s ∧ s.cfg.statusWait = .level ∧ (restPins s.pins s.env).cs = .deasserted := by decide

/-- CS rests deasserted for two samples, is asserted for two and is deasserted again; the schedule ends one step later,
and then goes on past the command. -/
theorem witness_StatusHandshakeUnderEdge :
    ∀ rest ∈ [[EnvEvent.peer (lines 0)], List.replicate 4 (.peer (lines 0)) ++ [.peer holding, .watchdog]],
      let s := { ableEdge with env :=
        ([lines 0, lines 0, lines 0, lines 0, lines 0, lines 0, lines 0, holding, holding, lines 0].map EnvEvent.peer ++ rest) }
      s.cfg.statusWait = .edge ∧ (∀ p ∈ [lines 0, lines 0], p.cs = .deasserted) ∧ holding.cs = .asserted ∧
        (∀ p ∈ [holding], p.cs = .asserted) ∧ (lines 0).cs = .deasserted ∧ EnvEvent.watchdog ∉ rest.take 4 ∧
        s.env = [.peer (lines 0), .peer (lines 0), .peer (lines 0), .peer (lines 0), .peer (lines 0)] ++
          [lines 0, lines 0].map .peer ++ [.peer holding] ++ [holding].map .peer ++ [.peer (lines 0)] ++ rest := by
  decide

theorem witness_IndicatorIsClearInTheHandshake :
    NoReset able ∧ NoReset waiting ∧ (∃ t, sendStatus 0x00 able = .done t) ∧ ∃ t, sendStatus 0x00 waiting = .halt t := by
  refine ⟨by decide, by decide, ⟨_, rfl⟩, _, rfl⟩

theorem witness_InitializeRecordsTheAnswers :
    let s := { able with replies := [yes, blocks 100, yes, blocks 100] }
    NoReset s ∧ s.replies = yes :: [blocks 100, yes, blocks 100] ∧ yes.ok = true ∧
      [blocks 100, yes, blocks 100] = blocks 100 :: yes :: blocks 100 :: [] ∧
      (blocks 100).capacity = (blocks 100).capacity ∧
      ({ able with replies := [no] } : State).replies = no :: [] ∧ no.ok = false := by
  refine ⟨by decide, rfl, rfl, rfl, rfl, rfl, rfl⟩

theorem witness_RetryIsBounded : NoReset able := by decide

theorem witness_RetryFollowsTheWorkedTraces :
    NoReset able ∧ no.ok = false ∧ yes.ok = true ∧
      ({ able with replies := [no, no, no, no] } : State).replies = [no, no, no, no] ++ [] ∧
      ({ able with replies := [no, no, no, yes, yes, no, yes, yes, no] } : State).replies =
        [no, no, no, yes, yes, no, yes, yes, no] ++ [] := by
  refine ⟨by decide, rfl, rfl, rfl, rfl⟩

theorem witness_IdlePollsForBothLines : able.cfg.ok = true ∧ NoReset able ∧ able.phase = .idle := by decide

theorem witness_AddressMatchFiltersTheId :
    let s := { able with phase := .addressMatch, pins := strobed 0x08 }
    s.cfg.ok = true ∧ NoReset s ∧ s.phase = .addressMatch ∧ s.dOut = .released ∧
      (pinsAt 1 s).data.toNat / 32 = s.cfg.deviceId.toNat ∧
      (pinsAt 1 { s with pins := strobed 0x28 }).data.toNat / 32 ≠ s.cfg.deviceId.toNat := by decide

/-- The reception of a byte, from its request on or from inside its strobe wait. -/
def receiving (waiting : Bool) (b : Fin 6) : State :=
  { able with
    phase := .receivingBytes waiting, bi := b
    env := (if waiting then [] else [.peer (lines 0)]) ++ [lines 0].map .peer ++
      [.peer (strobed 1), .peer (strobed 1), .peer (strobed 1), .peer (strobed 1), .peer (strobed 1)] ++ [] }

theorem witness_ReceivingBytesCapturesAfterTheStrobe :
    (∀ w b, (receiving w b).cfg.ok = true ∧ (receiving w b).phase = .receivingBytes w ∧ (receiving w b).dOut = .released) ∧
      (∀ w ∈ [lines 0], w.cs = .deasserted) ∧ (strobed 1).cs = .asserted ∧
      (receiving false 4).bi ≠ 5 ∧ (receiving false 5).bi = 5 ∧ (receiving true 4).bi ≠ 5 ∧ (receiving true 5).bi = 5 := by
  have hc : cfg.ok = true := by decide
  exact ⟨fun w b => ⟨hc, rfl, rfl⟩, by decide, rfl, by decide, rfl, by decide, rfl⟩

theorem witness_CompleteHandsTheFrameOver :
    let s := { able with phase := .complete }
    s.cfg.ok = true ∧ NoReset s ∧ s.phase = .complete ∧ ∃ t, step s = .next t ∧ t.phase = .dispatching .start := by
  refine ⟨by decide, by decide, rfl, _, rfl, rfl⟩

theorem witness_ReceptionAssemblesTheFrame :
    let p := strobed 0x08
    let b : Vector Pins 5 := #v[strobed 0x00, strobed 0x00, strobed 0x0A, strobed 0x02, strobed 0x00]
    let s := { able with
      phase := .addressMatch
      env := List.replicate 6 (EnvEvent.peer p) ++ b.toList.flatMap (fun q => List.replicate 6 (EnvEvent.peer q)) ++ [] }
    s.cfg.ok = true ∧ s.phase = .addressMatch ∧ s.dOut = .released ∧ p.data.toNat / 32 = s.cfg.deviceId.toNat ∧
      (∀ q ∈ b.toList, q.cs = .asserted) ∧ EnvEvent.watchdog ∉ ([] : List EnvEvent) := by
  refine ⟨by decide, rfl, rfl, by decide, by decide, by decide⟩

/-- The four waits, each with the peer at the level that does not end it. -/
theorem witness_WaitsHoldWhileTheLinesHold :
    able.cfg.ok = true ∧
      Hung { able with phase := .receivingBytes true } ∧
      Hung { waiting with phase := .dispatching (.sendAck 511 512 .readLoop) } ∧
      Hung { waiting with phase := .dispatching (.recvAck 511) } ∧
      Hung { able with phase := .sendingStatus .asserted } ∧
      Hung { waiting with phase := .sendingStatus .deasserted } ∧ (512 : Nat) ≤ 512 := by
  refine ⟨by decide, ⟨rfl, _, rfl, rfl⟩, ⟨rfl, _, rfl, rfl⟩, ⟨rfl, _, rfl, rfl⟩, ⟨rfl, _, rfl, rfl⟩, ⟨rfl, _, rfl, rfl⟩, by decide⟩

/-- A reset at the head of the schedule, in the middle of a Send, and one after its second byte has been driven. -/
theorem witness_WatchdogResetsFromAnyPhase :
    let s := { waiting with phase := .dispatching (.sendAck 100 512 .readLoop), env := [.watchdog] }
    let r := { able with phase := .dispatching (.sendAck 0 3 .status) }
    (s.cfg.ok = true ∧ s.env = .watchdog :: [] ∧ (512 : Nat) ≤ 512 ∧
      ({ s with cfg := { cfg with bootInit := true } } : State).cfg.bootInit = true) ∧
    r.cfg.ok = true ∧
      ∃ u, step { r with env := [prompt, prompt].map .peer ++ [.peer holding] } = .next u ∧ u.env = [] := by
  refine ⟨by decide, by decide, _, rfl, by decide⟩

theorem witness_BootInitializesOnce :
    let s := { able with phase := .boot }
    s.cfg.ok = true ∧ NoReset s ∧ s.phase = .boot := by decide

/-- The invariant holds after reset, and in the middle of a command; both states take a step. -/
theorem witness_StepKeepsTheInvariant :
    (base.Inv ∧ ∃ t, step base = .next t) ∧
      let s := cmd ⟨0x0B, 0, 0, 0, 0, 0⟩ true 100 []
      ({ s with log := [.guardSet false, .ledSet true, .guardSet true] } : State).Inv ∧ ∃ t, step s = .next t := by
  refine ⟨⟨⟨by decide, ?_⟩, _, rfl⟩, ⟨by decide, ?_⟩, _, rfl⟩
  · exact ⟨rfl, rfl, rfl, rfl⟩
  · exact ⟨rfl, rfl, rfl, rfl, rfl⟩

theorem witness_StepNeverStops : base.Inv ∧ base.cfg.ok = true := by
  refine ⟨⟨by decide, rfl, rfl, rfl, rfl⟩, by decide⟩

theorem witness_StepKeepsTheConfiguration : ∃ t, step base = .next t := ⟨_, rfl⟩

theorem witness_FrameIsImmutableInDispatch :
    let s := cmd ⟨0x0B, 0, 0, 0, 0, 0⟩ true 100 []
    let u := { waiting with phase := .sendingStatus .deasserted }
    (NoReset s ∧ s.phase = .dispatching .start ∧ ∃ t, step s = .next t) ∧
      NoReset u ∧ u.phase = .sendingStatus .deasserted ∧ ∃ t, step u = .next t := by
  refine ⟨⟨by decide, rfl, _, rfl⟩, by decide, rfl, _, rfl⟩

end Sys2Proof.Tests
end

