-- ==== Sys2Proof/Proofs/ParserFields.lean ====
section
/-! The frame parser (R22): what its outputs are, and that frame byte 5 has no part in a command. Changing byte 5 of a
frame changes one operand of the decoded command (`decodeFrame_setByte5`), which no command looks at
(`exec_withRsvd`). -/

namespace Sys2Proof

/-- `OPC` is the low five bits of frame byte 0. -/
theorem frame_opc_toNat (f : Frame) : f.opc.toNat = f.b0.toNat % 32 := by
  simp [Frame.opc, opcField]

/-- Frame register `k` is the `k`-th byte of the frame. -/
theorem frame_get_eq_getElem (f : Frame) : ∀ k, f.get k = [f.b0, f.b1, f.b2, f.b3, f.b4, f.b5][k]
  | 0 | 1 | 2 | 3 | 4 | 5 => rfl

/-- The registers other than `CF[5]` keep their values when byte 5 changes. -/
theorem frame_get_setByte5 (f : Frame) (v : Byte) : ∀ k : Fin 6, k ≠ 5 → Frame.get { f with b5 := v } k = f.get k
  | 0, _ | 1, _ | 2, _ | 3, _ | 4, _ => rfl
  | 5, h => absurd rfl h

/-- The operands with another reserved byte (the one frame byte 5 carries). -/
def Args.withRsvd (v : Byte) (a : Args) : Args := { a with rsvd := v }

/-- The same command, with another reserved byte in its operands. -/
def Instr.withRsvd (v : Byte) : Instr → Instr
  | .testReady a     => .testReady (a.withRsvd v)
  | .requestSense a  => .requestSense (a.withRsvd v)
  | .formatDrive a   => .formatDrive (a.withRsvd v)
  | .verifyTrack a   => .verifyTrack (a.withRsvd v)
  | .formatTrack a   => .formatTrack (a.withRsvd v)
  | .readBlock a     => .readBlock (a.withRsvd v)
  | .writeBlock a    => .writeBlock (a.withRsvd v)
  | .seek a          => .seek (a.withRsvd v)
  | .correction a    => .correction (a.withRsvd v)
  | .inquiry a       => .inquiry (a.withRsvd v)
  | .modeSelect a    => .modeSelect (a.withRsvd v)
  | .modeSense0 a    => .modeSense0 (a.withRsvd v)
  | .modeSense4 a    => .modeSense4 (a.withRsvd v)
  | .ship a          => .ship (a.withRsvd v)
  | .unsupported o a => .unsupported o (a.withRsvd v)

/-- A good configuration takes the sub-page of a Mode-sense from another byte than byte 5 (R96). -/
theorem msPageByte_ne_five {c : Config} (hc : c.ok = true) : c.msPageByte ≠ 5 := by
  obtain ⟨_, ⟨_, hle⟩, _⟩ := (ok_iff c).1 hc
  intro h
  simp [h] at hle

/-- Byte 5 does not choose the command (R99): it reaches the reserved operand and nothing else. -/
theorem decodeFrame_setByte5 (c : Config) (f : Frame) (v : Byte) (hp : c.msPageByte ≠ 5) :
    decodeFrame c { f with b5 := v } = (decodeFrame c f).withRsvd v := by
  have hopc : Frame.opc { f with b5 := v } = f.opc := rfl
  have hargs : Frame.args { f with b5 := v } = f.args.withRsvd v := rfl
  have hpage : Frame.page c { f with b5 := v } = f.page c := frame_get_setByte5 f v _ hp
  simp only [decodeFrame, hopc, hargs, hpage, apply_ite (Instr.withRsvd v)]
  rfl

end Sys2Proof

namespace Sys2Proof.Machine

/-- No command looks at the reserved byte of its operands: the block commands read `LBA` and `LEN`, the responses of
chosen length `LEN`, and every other command no operand. -/
theorem exec_withRsvd (i : Instr) (v : Byte) (s : State) : exec (i.withRsvd v) s = exec i s := by
  cases i <;> rfl

/-- Settles O5: the outputs are the fields by their definitions, and a command is executed as it would be with any
other byte 5. -/
theorem parserReadsTheFields : Obligations.ParserReadsTheFields := by
  intro c f
  refine ⟨frame_opc_toNat f, lba_toNat f, rfl, frame_get_eq_getElem f c.msPageByte, fun v s hc => ?_⟩
  rw [decodeFrame_setByte5 c f v (msPageByte_ne_five hc), exec_withRsvd]

end Sys2Proof.Machine
end

section
/-! The block address of a frame (R64). -/

namespace Sys2Proof.Machine

/-- Settles O4: the law `lba_toNat` of the encoding, which reads the concatenation `CF[1] ++ CF[2] ++ CF[3]` as a
number, holds for every frame. -/
theorem blockAddressIsBigEndian : Obligations.BlockAddressIsBigEndian := fun f => lba_toNat f

end Sys2Proof.Machine
end

section
/-! What a transfer leaves on the lines (R148). The loops of `Send` and `Receive` drive no IRQ, so IRQ is at their end as
it was at their beginning; the end that both share releases the data lines and DRQ. -/

namespace Sys2Proof.Machine

/-- No watchdog reset is scheduled, and IRQ is driven as `q` says. -/
abbrev IrqAt (q : IrqDrive) (s : State) : Prop := NoReset s ∧ s.irqOut = q

/-- The data lines and DRQ are released, and IRQ is driven as `q` says. -/
abbrev DmaReleased (q : IrqDrive) (s : State) : Prop := s.dOut = .released ∧ s.drqOut = .released ∧ s.irqOut = q

/-- The sequence returns with `P`, if it returns: a wait that never ends makes no claim. -/
abbrev Returns {α : Type} (f : Flow α) (P : α → Prop) : Prop := f.Sat P fun _ => True

variable {q : IrqDrive}

/-- An atomic step that writes neither the schedule nor IRQ. -/
theorem act_irqAt {f : State → State} (hf : ∀ s, (f s).env = s.env ∧ (f s).irqOut = s.irqOut) {s : State}
    (h : IrqAt q s) : Returns (act f s) (IrqAt q) := by
  obtain ⟨p, e, ht, hn⟩ := act_quiet (f := f) h.1
  obtain ⟨henv, hirq⟩ := hf { s with pins := p, env := e }
  rw [ht]
  exact ⟨by rw [NoReset, henv]; exact hn, hirq.trans h.2⟩

theorem setGuard_irqAt (b : Bool) {s : State} (h : IrqAt q s) : Returns (setGuard b s) (IrqAt q) :=
  act_irqAt (f := State.writeGuard b) (fun _ => ⟨rfl, rfl⟩) h

theorem driveData_irqAt (v : Byte) {s : State} (h : IrqAt q s) : Returns (driveData v s) (IrqAt q) :=
  act_irqAt (f := fun s => State.record (.droveData v) { s with dOut := .drive v }) (fun _ => ⟨rfl, rfl⟩) h

theorem pulseLow_irqAt (n : Nat) {s : State} (h : IrqAt q s) : Returns (pulseLow n s) (IrqAt q) :=
  act_irqAt (f := fun s => drqHigh (State.record (.pulsedDrq n) (drqLow s))) (fun _ => ⟨rfl, rfl⟩) h

theorem storeByte_irqAt (i : Nat) (v : Byte) {s : State} (h : IrqAt q s) :
    Returns (act (storeByte i v) s) (IrqAt q) :=
  act_irqAt (f := storeByte i v) (fun _ => ⟨rfl, rfl⟩) h

theorem spinUntil_irqAt (w : WaitKind) (ph : Phase) {s : State} (h : IrqAt q s) :
    Returns (spinUntil w ph s) (IrqAt q) := by
  rcases spinUntil_quiet w ph h.1 with ⟨p, e, ht, hn⟩ | ⟨p, ht, _⟩ <;> rw [ht]
  · exact ⟨hn, h.2⟩
  · trivial

/-- Reading the data lines at most draws a free value. -/
theorem dataLines_irqAt {s : State} (h : IrqAt q s) : IrqAt q (dataLines s).2 := by
  unfold dataLines
  split <;> exact h

theorem sampleData_irqAt {s : State} (h : IrqAt q s) : Returns (sampleData s) fun r => IrqAt q r.2 := by
  obtain ⟨p, e, ht, hn⟩ := tick_quiet h.1
  rw [sampleData, ht]
  exact dataLines_irqAt (s := { s with pins := p, env := e }) ⟨hn, h.2⟩

/-- The end of a transfer releases the data lines and DRQ, whatever drove them, and leaves IRQ. -/
theorem endTransfer_dmaReleased {s : State} (h : IrqAt q s) : Returns (endTransfer s) (DmaReleased q) := by
  obtain ⟨p, e, hr, hn⟩ := act_quiet (f := releaseLines .dma) h.1
  obtain ⟨p', e', hg, _⟩ := act_quiet (f := State.writeGuard false)
    (s := releaseLines .dma { s with pins := p, env := e }) hn
  rw [endTransfer, release, hr, bind_done, setGuard, hg]
  exact ⟨rfl, rfl, h.2⟩

theorem sendFrom_dmaReleased (n : Nat) (next : AfterSend) (k i : Nat) {s : State} (h : IrqAt q s) :
    Returns (sendFrom n next k i s) (DmaReleased q) := by
  induction k generalizing i s with
  | zero => exact endTransfer_dmaReleased h
  | succ k ih =>
    refine sat_bind (driveData_irqAt _ h) fun t driven => ?_
    refine sat_bind (pulseLow_irqAt _ driven) fun u pulsed => ?_
    exact sat_bind (spinUntil_irqAt _ _ pulsed) fun v acked => ih (i + 1) acked

theorem recvFrom_dmaReleased (k i : Nat) {s : State} (h : IrqAt q s) :
    Returns (recvFrom k i s) (DmaReleased q) := by
  induction k generalizing i s with
  | zero => exact endTransfer_dmaReleased h
  | succ k ih =>
    refine sat_bind (pulseLow_irqAt _ h) fun t pulsed => ?_
    refine sat_bind (sampleData_irqAt pulsed) fun r sampled => ?_
    refine sat_bind (storeByte_irqAt i r.1 sampled) fun u stored => ?_
    exact sat_bind (spinUntil_irqAt _ _ stored) fun v acked => ih (i + 1) acked

theorem send_dmaReleased (n : Nat) (next : AfterSend) {s : State} (h : NoReset s) :
    Returns (send n next s) (DmaReleased s.irqOut) :=
  sat_bind (setGuard_irqAt true ⟨h, rfl⟩) fun _ guarded => sendFrom_dmaReleased n next n 0 guarded

theorem receive_dmaReleased (n : Nat) {s : State} (h : NoReset s) :
    Returns (receive n s) (DmaReleased s.irqOut) :=
  sat_bind (setGuard_irqAt true ⟨h, rfl⟩) fun _ guarded => recvFrom_dmaReleased n 0 guarded

/-- Settles O39: either transfer, if it returns, returns from the end that both share. The bound on the length is not
needed. -/
theorem transfersLeaveTheLinesReleased : Obligations.TransfersLeaveTheLinesReleased := by
  intro s t n x h _ hret
  rcases hret with hsend | hrecv
  · have hs := send_dmaReleased n x h
    rwa [hsend] at hs
  · have hr := receive_dmaReleased n h
    rwa [hrecv] at hr

end Sys2Proof.Machine
end

section
/-! The handover to the dispatcher (R166). `Complete` makes three writes. No other phase leads to the first line of a
command: a sequence of steps either ends with a write of another phase, or is left in a wait, and no wait stands at the
first line. -/

namespace Sys2Proof.Machine

/-! ## `Complete` -/

/-- `Complete` writes the guard, `STATUS_DONE` and the phase, and nothing else of the engine. -/
theorem completeStep_yields {p : Pins} {s0 s : State} (h : Tracks p s0 s) :
    Yields p (completeStep s)
      (State.after [.guardSet false]
        { s0 with guard := false, statusDone := false, phase := .dispatching .start }) :=
  yields_bind (setGuard_yields false h) fun _ h1 =>
  yields_bind (act_yields (writeStatusDone_op false) h1) fun _ h2 => act_yields (writePhase_op _) h2

/-- The step of a good configuration in phase `Complete` (R166). -/
theorem step_complete {s : State} (hok : s.cfg.ok = true) (hp : s.phase = .complete) :
    step s = (completeStep s).next := by
  rw [step, if_pos hok, hp]

/-! ## Sequences that do not lead to the dispatcher -/

/-- The engine is not at the first line of a command. -/
abbrev Away (s : State) : Prop := s.phase ≠ .dispatching .start

/-- The sequence leaves the engine away from the first line of a command, however it ends. -/
abbrev EndsAway (f : Flow State) : Prop := f.Sat Away Away

/-- The sequence comes to its end with still no watchdog reset scheduled, or is cut short away from the first line of a
command. -/
abbrev PassesAway (f : Flow State) : Prop := f.Sat NoReset Away

theorem away_of_idle {s : State} (h : s.phase = .idle) : Away s := by simp [Away, h]

/-- The first line of a command is no wait. -/
theorem away_of_hung {s : State} (h : Hung s) : Away s := by
  obtain ⟨_, w, hw, _⟩ := h
  intro hp
  simp [hp, Phase.wait] at hw

theorem endsAway_of_block {s : State} {f : Flow State} (h : OnBlock s (fun t => t.phase = .idle) f) : EndsAway f :=
  sat_mono h (fun _ ⟨_, hp⟩ => away_of_idle hp) fun _ ⟨_, hh, _⟩ => away_of_hung hh

theorem endsAway_of_bus {s : State} {f : Flow State} (h : OnBus s (fun t => t.phase = .idle) f) : EndsAway f :=
  endsAway_of_block (onBlock_of_bus h)

theorem passesAway_of_bus {s : State} {R : State → Prop} {f : Flow State} (h : OnBus s R f) : PassesAway f :=
  sat_mono h (fun _ ⟨⟨_, hn⟩, _⟩ => hn) fun _ ⟨_, hh, _⟩ => away_of_hung hh

/-- A sequence that comes to its end ends in the phase of the engine it leaves. -/
theorem endsAway_of_yields {p : Pins} {f : Flow State} {s0 : State} (h : Yields p f s0) (h0 : Away s0) :
    EndsAway f := by
  obtain ⟨t, rfl, he, _⟩ := h
  have hphase : t.phase = s0.phase := (congrArg State.phase he :)
  exact fun hp => h0 (hphase.symm.trans hp)

theorem next_away {f : Flow State} (h : EndsAway f) {t : State} (ht : f.next = .next t) : Away t :=
  Host.Outcome.next.inj ht ▸ sat_state h

/-! ## Atomic steps and waits -/

/-- An atomic step that leaves the schedule alone comes to its end, so what follows it decides. -/
theorem act_bind_sat {P : State → Prop} {f : State → State} {g : State → Flow State} {s : State} (h : NoReset s)
    (hg : ∀ t, NoReset t → (g t).Sat P Away) (hf : ∀ s, (f s).env = s.env := by exact fun _ => rfl) :
    ((act f s).bind g).Sat P Away := by
  obtain ⟨p, e, ht, hn⟩ := act_quiet (f := f) h
  rw [ht]
  exact hg _ (by rw [NoReset, hf]; exact hn)

/-- An atomic step that puts the engine in another phase. -/
theorem act_endsAway {f : State → State} (hf : ∀ s, Away (f s)) {s : State} (h : NoReset s) :
    EndsAway (act f s) := by
  obtain ⟨p, e, ht, _⟩ := act_quiet (f := f) h
  rw [ht]
  exact hf _

theorem writePhase_endsAway {ph : Phase} (hph : ph ≠ .dispatching .start) {s : State} (h : NoReset s) :
    EndsAway (act (writePhase ph) s) :=
  act_endsAway (f := writePhase ph) (fun _ => hph) h

/-- A wait that does not end leaves the engine in the wait, whether or not the guard is held. -/
theorem spinUntil_passesAway (w : WaitKind) {ph : Phase} (hph : ph ≠ .dispatching .start) {s : State}
    (h : NoReset s) : PassesAway (spinUntil w ph s) := by
  rcases spinUntil_quiet w ph h with ⟨p, e, ht, hn⟩ | ⟨p, ht, _⟩ <;> rw [ht]
  · exact hn
  · exact hph

/-- A sample of the data lines comes to its end, so what follows it decides. -/
theorem sampleData_bind_sat {P : State → Prop} {g : Byte × State → Flow State} {s : State} (h : NoReset s)
    (hg : ∀ v t, NoReset t → (g (v, t)).Sat P Away) : ((sampleData s).bind g).Sat P Away := by
  obtain ⟨v, t, ht, ⟨_, _, _, _, hn⟩, _⟩ := sampleData_block h
  rw [ht]
  exact hg v t hn

/-- An initialization comes to its end, so what follows it decides. -/
theorem initDevice_bind_endsAway {g : Bool × State → Flow State} {s : State} (h : NoReset s)
    (hg : ∀ ok t, NoReset t → EndsAway (g (ok, t))) : EndsAway ((initDevice s).bind g) := by
  obtain ⟨t, ht, hn, _⟩ := initDevice_quiet h
  rw [ht]
  exact hg _ t hn

/-! ## Transfers, from any place inside them -/

theorem endTransfer_passesAway {s : State} (h : NoReset s) : PassesAway (endTransfer s) :=
  passesAway_of_bus (endTransfer_bus h)

theorem sendFrom_passesAway (n : Nat) (next : AfterSend) (k i : Nat) {s : State} (h : NoReset s) :
    PassesAway (sendFrom n next k i s) := by
  induction k generalizing i s with
  | zero => exact endTransfer_passesAway h
  | succ k ih =>
    refine act_bind_sat h fun t driven => ?_
    refine act_bind_sat driven fun u pulsed => ?_
    exact sat_bind (spinUntil_passesAway _ (by simp) pulsed) fun v acked => ih (i + 1) acked

theorem recvFrom_passesAway (k i : Nat) {s : State} (h : NoReset s) : PassesAway (recvFrom k i s) := by
  induction k generalizing i s with
  | zero => exact endTransfer_passesAway h
  | succ k ih =>
    refine act_bind_sat h fun t pulsed => ?_
    refine sampleData_bind_sat pulsed fun b u sampled => ?_
    refine act_bind_sat sampled fun v stored => ?_
    exact sat_bind (spinUntil_passesAway _ (by simp) stored) fun w acked => ih (i + 1) acked

/-! ## The commands, from their first line on -/

theorem sendSuccess_endsAway {s : State} (h : NoReset s) : EndsAway (sendSuccess s) :=
  endsAway_of_bus (sendSuccess_bus h)

theorem raiseError_endsAway (k : ErrorKind) {s : State} (h : NoReset s) : EndsAway (raiseError k s) :=
  endsAway_of_bus (raiseError_bus k h)

theorem prologue_endsAway {body : State → Flow State} (hb : ∀ s, NoReset s → EndsAway (body s)) {s : State}
    (h : NoReset s) : EndsAway (prologue body s) := by
  unfold prologue
  split
  · exact hb s h
  · refine initDevice_bind_endsAway h fun ok t hn => ?_
    cases ok
    · exact raiseError_endsAway _ hn
    · exact hb t hn

theorem forceInit_endsAway {s : State} (h : NoReset s) : EndsAway (forceInit s) :=
  initDevice_bind_endsAway h fun ok t hn => by
    cases ok
    · exact raiseError_endsAway _ hn
    · exact sendSuccess_endsAway hn

theorem sendResponse_endsAway (n : Nat) {s : State} (h : NoReset s) : EndsAway (sendResponse n s) :=
  sat_bind (passesAway_of_bus (send_bus n .status h)) fun _ hn => sendSuccess_endsAway hn

theorem respond_endsAway (l : List Byte) (n : Nat) {s : State} (h : NoReset s) : EndsAway (respond l n s) :=
  act_bind_sat h fun _ hn => sendResponse_endsAway n hn

theorem storeBytes_passesAway (l : List Byte) (i : Nat) {s : State} (h : NoReset s) :
    PassesAway (storeBytes l i s) := by
  induction l generalizing i s with
  | nil => exact h
  | cons v l ih => exact act_bind_sat h fun _ hn => ih (i + 1) hn

theorem readLoop_endsAway (n b : Nat) {s : State} (h : NoReset s) : EndsAway (readLoop n b s) :=
  endsAway_of_block (readLoop_block_frame n b h)

theorem writeLoop_endsAway (n b : Nat) {s : State} (h : NoReset s) : EndsAway (writeLoop n b s) :=
  endsAway_of_block (writeLoop_block_frame n b h)

theorem blockCommand_endsAway {loop : Nat → Nat → State → Flow State}
    (hl : ∀ n b s, NoReset s → EndsAway (loop n b s)) (a : Args) {s : State} (h : NoReset s) :
    EndsAway (blockCommand loop a s) := by
  unfold blockCommand
  split
  · exact act_bind_sat h fun t hn => hl _ _ t hn
  · exact raiseError_endsAway _ h

/-- Every command, from its first line on, ends elsewhere or is left in one of its waits. -/
theorem exec_endsAway (i : Instr) {s : State} (h : NoReset s) :
    ∃ f : Flow State, exec i s = f.next ∧ EndsAway f := by
  cases i with
  | testReady a | formatDrive a | verifyTrack a | formatTrack a =>
    exact ⟨_, rfl, prologue_endsAway (fun _ hn => forceInit_endsAway hn) h⟩
  | seek a | correction a | modeSelect a | ship a =>
    exact ⟨_, rfl, prologue_endsAway (fun _ hn => sendSuccess_endsAway hn) h⟩
  | modeSense0 a | modeSense4 a =>
    exact ⟨_, rfl, prologue_endsAway (fun _ hn => respond_endsAway _ _ hn) h⟩
  | requestSense a =>
    exact ⟨_, rfl, prologue_endsAway
      (fun _ hn => initDevice_bind_endsAway hn fun _ _ hn => respond_endsAway _ _ hn) h⟩
  | inquiry a =>
    exact ⟨_, rfl, prologue_endsAway
      (fun _ hn => sat_bind (storeBytes_passesAway _ 0 hn) fun _ hn => sendResponse_endsAway _ hn) h⟩
  | readBlock a =>
    exact ⟨_, rfl, prologue_endsAway
      (fun _ hn => blockCommand_endsAway (fun n b _ hn => readLoop_endsAway n b hn) a hn) h⟩
  | writeBlock a =>
    exact ⟨_, rfl, prologue_endsAway
      (fun _ hn => blockCommand_endsAway (fun n b _ hn => writeLoop_endsAway n b hn) a hn) h⟩
  | unsupported o a => exact ⟨_, rfl, prologue_endsAway (fun _ hn => raiseError_endsAway _ hn) h⟩

/-! ## The commands, from one of their waits on -/

theorem afterSend_endsAway (next : AfterSend) {s : State} (h : NoReset s) : EndsAway (afterSend next s) := by
  cases next with
  | status => exact sendSuccess_endsAway h
  | readLoop => exact act_bind_sat h fun _ hn => readLoop_endsAway _ _ hn

theorem resumeSend_away {i n : Nat} {next : AfterSend} {s t : State} (h : NoReset s)
    (ht : resumeSend i n next s = .next t) : Away t := by
  unfold resumeSend at ht
  split at ht
  · refine next_away (sat_bind (P := NoReset) ?_ fun _ hn => afterSend_endsAway next hn) ht
    exact sat_bind (spinUntil_passesAway _ (by simp) h) fun _ hn => sendFrom_passesAway _ _ _ _ hn
  · cases ht

theorem resumeReceive_endsAway (i : Nat) {s : State} (h : NoReset s) : EndsAway (resumeReceive i s) := by
  refine sat_bind (P := NoReset) ?_ fun _ hn =>
    endsAway_of_block (storeBlock_frame _ _ (fun _ hn => writeLoop_block_frame _ _ hn) hn)
  exact sat_bind (spinUntil_passesAway _ (by simp) h) fun _ hn => recvFrom_passesAway _ _ hn

theorem resumeStatus_endsAway (p : StatusPos) {s : State} (h : NoReset s) : EndsAway (resumeStatus p s) := by
  have hdeasserted {s : State} (h : NoReset s) : PassesAway (statusWaitDeasserted s) :=
    spinUntil_passesAway _ (by simp) h
  have hreturn : ∀ t, NoReset t → EndsAway (statusReturn t) := fun _ hn => endsAway_of_bus (statusReturn_bus hn)
  cases p with
  | asserted =>
    exact sat_bind (sat_bind (spinUntil_passesAway _ (by simp) h) fun _ hn => hdeasserted hn) hreturn
  | deasserted => exact sat_bind (hdeasserted h) hreturn

/-! ## Reception -/

theorem bootStep_endsAway {s : State} (h : NoReset s) : EndsAway (bootStep s) :=
  initDevice_bind_endsAway h fun _ _ hn => writePhase_endsAway (by simp) hn

theorem idleStep_endsAway {s : State} (h : NoReset s) : EndsAway (idleStep s) := by
  refine act_bind_sat h fun t hn => ?_
  obtain ⟨p, e, ht, hn⟩ := tick_quiet hn
  rw [sampleLines, ht]
  show EndsAway (if _ then _ else _)
  split
  · exact writePhase_endsAway (by simp) hn
  · exact away_of_idle rfl

theorem addressMatchStep_endsAway {s : State} (h : NoReset s) : EndsAway (addressMatchStep s) := by
  refine sampleData_bind_sat h fun raw t hn => ?_
  show EndsAway (if _ then _ else _)
  split
  · refine act_bind_sat hn fun u hn => endsAway_of_yields
      (yields_bind (act_yields (writePhase_op (.receivingBytes false)) (tracks_self hn)) fun _ h1 =>
      yields_bind (setGuard_yields true h1) fun _ h2 =>
      yields_bind (setLed_yields true h2) fun _ h3 =>
      act_yields (f := writeBi 1) (fun _ _ _ => ⟨rfl, rfl⟩) h3) ?_
    simp
  · exact writePhase_endsAway (by simp) hn

theorem nextByte_endsAway {s : State} (h : NoReset s) : EndsAway (nextByte s) := by
  unfold nextByte
  split
  · exact writePhase_endsAway (by simp) h
  · exact act_endsAway (fun _ => by simp) h

theorem receiveByteStep_endsAway (waiting : Bool) {s : State} (h : NoReset s) :
    EndsAway (receiveByteStep waiting s) := by
  have hirq : PassesAway (if waiting then .done s else assertIrq s) := by
    cases waiting
    · exact passesAway_of_bus (R := fun _ => True) (act_bus h fun _ _ hn => ⟨⟨rfl, hn⟩, trivial⟩)
    · exact h
  refine sat_bind hirq fun t hn => ?_
  refine sat_bind (spinUntil_passesAway _ (by simp) hn) fun u hn => ?_
  refine act_bind_sat hn fun v hn => ?_
  refine sampleData_bind_sat hn fun b w hn => ?_
  exact act_bind_sat hn fun x hn => nextByte_endsAway hn

/-! ## One step -/

/-- No phase but `Complete` leads to the first line of a command. -/
theorem step_away {s t : State} (h : NoReset s) (hp : s.phase ≠ .complete) (ht : step s = .next t) : Away t := by
  unfold step at ht
  split at ht
  · generalize s.phase = ph at hp ht
    cases ph with
    | boot => exact next_away (bootStep_endsAway h) ht
    | idle => exact next_away (idleStep_endsAway h) ht
    | addressMatch => exact next_away (addressMatchStep_endsAway h) ht
    | receivingBytes waiting => exact next_away (receiveByteStep_endsAway waiting h) ht
    | complete => exact absurd rfl hp
    | dispatching pos =>
      cases pos with
      | start =>
        obtain ⟨f, hf, ha⟩ := exec_endsAway (decodeFrame s.cfg s.cf) h
        exact next_away ha (hf ▸ ht)
      | sendAck i n next => exact resumeSend_away h ht
      | recvAck i => exact next_away (resumeReceive_endsAway i h) ht
    | sendingStatus p => exact next_away (resumeStatus_endsAway p h) ht
  · cases ht

/-- Settles O50: the three writes of `Complete`, and that a step from any other phase ends elsewhere. -/
theorem completeHandsTheFrameOver : Obligations.CompleteHandsTheFrameOver := by
  refine ⟨fun s hok h hp => ?_, fun s t h ht hstart => ?_⟩
  · obtain ⟨t, ht, he, _⟩ := next_of_yields (completeStep_yields (tracks_self h))
    exact ⟨t, (step_complete hok hp).trans ht, he⟩
  · by_contra hp
    exact step_away h hp ht hstart

end Sys2Proof.Machine
end

section
/-! The indicator in the status handshake (R195). The handshake clears the indicator and drives the status byte in its
first steps, which end whatever the peer does. Nothing after the drive sets the indicator: neither the rest of the
handshake nor a wait that is never left. -/

namespace Sys2Proof.Machine

/-! ## Sequences that leave the indicator alone -/

/-- `t` is `s` after steps that leave the indicator as it is and record no entry that sets it, and no watchdog reset is
scheduled. -/
def LedKept (s t : State) : Prop :=
  NoReset t ∧ t.led = s.led ∧ ∃ tr : List Event, t.log = tr.reverse ++ s.log ∧ ∀ b, Event.ledSet b ∉ tr

/-- The sequence leaves the indicator alone, however it ends. -/
abbrev KeepsLed (s : State) (f : Flow State) : Prop := f.Sat (LedKept s) (LedKept s)

theorem ledKept_trans {s t u : State} (h : LedKept s t) (k : LedKept t u) : LedKept s u := by
  obtain ⟨_, hled, tr, hlog, htr⟩ := h
  obtain ⟨hn, kled, tr', klog, htr'⟩ := k
  refine ⟨hn, kled.trans hled, tr ++ tr', by simp [klog, hlog], fun b hb => ?_⟩
  exact (List.mem_append.mp hb).elim (htr b) (htr' b)

theorem keepsLed_bind {s : State} {f : Flow State} {g : State → Flow State} (hf : KeepsLed s f)
    (hg : ∀ t, NoReset t → KeepsLed t (g t)) : KeepsLed s (f.bind g) :=
  sat_bind hf fun t ht => sat_mono (hg t ht.1) (fun _ => ledKept_trans ht) fun _ => ledKept_trans ht

/-- An atomic step that leaves the schedule alone comes to its end, with the indicator at `l` and `es` recorded, as `f`
says: the move of the peer before it has no part in either. -/
theorem act_records (f : State → State) (l : Bool) (es : List Event) {s : State} (h : NoReset s)
    (henv : ∀ s, (f s).env = s.env := by exact fun _ => rfl)
    (hled : ∀ p e, (f { s with pins := p, env := e }).led = l := by exact fun _ _ => rfl)
    (hlog : ∀ s, (f s).log = es.reverse ++ s.log := by exact fun _ => rfl) :
    ∃ t, act f s = .done t ∧ NoReset t ∧ t.led = l ∧ t.log = es.reverse ++ s.log := by
  obtain ⟨p, e, ht, hn⟩ := act_quiet (f := f) h
  exact ⟨_, ht, by rw [NoReset, henv]; exact hn, hled p e, hlog _⟩

/-- An atomic step that writes neither the schedule nor the indicator, and records `es`. -/
theorem act_keepsLed (f : State → State) (es : List Event) {s : State} (h : NoReset s)
    (henv : ∀ s, (f s).env = s.env := by exact fun _ => rfl)
    (hled : ∀ s, (f s).led = s.led := by exact fun _ => rfl)
    (hlog : ∀ s, (f s).log = es.reverse ++ s.log := by exact fun _ => rfl)
    (hes : ∀ b, Event.ledSet b ∉ es := by simp) : KeepsLed s (act f s) := by
  obtain ⟨t, ht, hn, tled, tlog⟩ := act_records f s.led es h henv (fun _ _ => hled _) hlog
  rw [ht]
  exact ⟨hn, tled, es, tlog, hes⟩

theorem spinUntil_keepsLed (w : WaitKind) (ph : Phase) {s : State} (h : NoReset s) :
    KeepsLed s (spinUntil w ph s) := by
  rcases spinUntil_quiet w ph h with ⟨p, e, ht, hn⟩ | ⟨p, ht, _⟩ <;> rw [ht]
  · exact ⟨hn, rfl, [.waited w], rfl, by simp⟩
  · exact ⟨by simp [NoReset], rfl, [], rfl, by simp⟩

/-! ## The handshake -/

theorem assertIrq_keepsLed {s : State} (h : NoReset s) : KeepsLed s (assertIrq s) :=
  act_keepsLed (fun s => State.record .assertedIrq { s with irqOut := .asserted }) [.assertedIrq] h

theorem statusWait_keepsLed {s : State} (h : NoReset s) : KeepsLed s (statusWait s) := by
  unfold statusWait
  split
  · exact spinUntil_keepsLed _ _ h
  · exact keepsLed_bind (spinUntil_keepsLed _ _ h) fun _ ht => spinUntil_keepsLed _ _ ht

theorem statusReturn_keepsLed {s : State} (h : NoReset s) : KeepsLed s (statusReturn s) :=
  keepsLed_bind (act_keepsLed (releaseLines .all) [.released .all] h) fun _ released =>
  keepsLed_bind (act_keepsLed (State.writeGuard false) [.guardSet false] released) fun _ unguarded =>
  keepsLed_bind (act_keepsLed (State.writeStatusDone true) [] unguarded) fun _ marked =>
  act_keepsLed (writePhase .idle) [] marked

/-- The handshake comes to drive the status byte whatever the peer does, the indicator being cleared first (R190,
R195). -/
theorem sendStatus_drives (code : Byte) {s : State} (h : NoReset s) :
    ∃ u, sendStatus code s = (assertIrq u).bind (fun t => (statusWait t).bind statusReturn) ∧ NoReset u ∧
      u.led = false ∧ u.log = [.droveData code, .guardSet true, .ledSet false] ++ s.log := by
  obtain ⟨t1, h1, n1, _, log1⟩ := act_records (fun s => writePhase (.sendingStatus (statusStart s.cfg)) s) s.led [] h
  obtain ⟨t2, h2, n2, led2, log2⟩ := act_records (State.writeLed false) false [.ledSet false] n1
  obtain ⟨t3, h3, n3, led3, log3⟩ := act_records (State.writeGuard true) t2.led [.guardSet true] n2
  obtain ⟨t4, h4, n4, led4, log4⟩ :=
    act_records (fun s => State.record (.droveData code) { s with dOut := .drive code }) t3.led [.droveData code] n3
  refine ⟨t4, ?_, n4, led4.trans (led3.trans led2), by simp [log4, log3, log2, log1]⟩
  rw [sendStatus, h1, bind_done, setLed, h2, bind_done, setGuard, h3, bind_done, driveData, h4, bind_done]

/-- From the drive of the status byte on, the handshake leaves the indicator alone. -/
theorem sendStatus_keepsLed (code : Byte) {s : State} (h : NoReset s) :
    ∃ u : State, KeepsLed u (sendStatus code s) ∧ u.led = false ∧
      u.log = [.droveData code, .guardSet true, .ledSet false] ++ s.log := by
  obtain ⟨u, hd, hn, hled, hlog⟩ := sendStatus_drives code h
  refine ⟨u, hd ▸ ?_, hled, hlog⟩
  exact keepsLed_bind (assertIrq_keepsLed hn) fun _ ht =>
    keepsLed_bind (statusWait_keepsLed ht) fun _ => statusReturn_keepsLed

/-- Settles O43: the indicator is clear and the byte driven after the first steps, and nothing that follows sets the
indicator, whether the handshake ends or is left in its wait. -/
theorem indicatorIsClearInTheHandshake : Obligations.IndicatorIsClearInTheHandshake := by
  intro s t code h hend
  obtain ⟨u, hkeeps, hled, hlog⟩ := sendStatus_keepsLed code h
  have hkept : LedKept u t := by
    rcases hend with hdone | hhalt
    · rwa [hdone] at hkeeps
    · rwa [hhalt] at hkeeps
  obtain ⟨_, tled, tr, tlog, htr⟩ := hkept
  exact ⟨tled.trans hled, .guardSet true :: .droveData code :: tr, by simp [tlog, hlog], by simp, by simpa using htr⟩

end Sys2Proof.Machine
end

section
/-! The Request-Sense response (R261): its length, its first four bytes, and the zeros that follow them. -/

namespace Sys2Proof.Machine

/-- R65: a 24-bit field is the value's low three bytes, the high one first. -/
theorem map_toNat_be24 (v : BitVec 32) :
    (be24 v).map BitVec.toNat = [v.toNat / 65536 % 256, v.toNat / 256 % 256, v.toNat % 256] := by
  simp [be24, BitVec.extractLsb'_toNat, Nat.shiftRight_eq_div_pow]

@[simp] theorem length_be24 (v : BitVec 32) : (be24 v).length = 3 := rfl

theorem length_senseResponse (cap : BitVec 32) {n : Nat} (hn : 4 ≤ n) : (senseResponse cap n).length = n := by
  simp only [senseResponse, List.length_append, List.length_cons, length_be24, List.length_replicate]
  omega

theorem getElem?_senseResponse_head (cap : BitVec 32) (n : Nat) {k : Nat} (hk : k < 4) :
    (senseResponse cap n)[k]? = (rsFlag :: be24 cap)[k]? :=
  List.getElem?_append_left hk

theorem getElem?_senseResponse_tail (cap : BitVec 32) {n k : Nat} (hk : 4 ≤ k) (hn : k < n) :
    (senseResponse cap n)[k]? = some 0x00 := by
  have hpad : (senseResponse cap n)[k]? = (List.replicate (n - 4) (0x00 : Byte))[k - 4]? :=
    List.getElem?_append_right hk
  rw [hpad, List.getElem?_replicate_of_lt (by omega)]

/-- The first four bytes as numbers: the flag, then the capacity. -/
theorem toNat_senseResponse_head (cap : BitVec 32) (n : Nat) {k : Nat} (hk : k < 4) :
    ((senseResponse cap n)[k]?).map BitVec.toNat =
      [0x80, cap.toNat / 65536 % 256, cap.toNat / 256 % 256, cap.toNat % 256][k]? := by
  rw [getElem?_senseResponse_head cap n hk, ← List.getElem?_map, List.map_cons, map_toNat_be24]
  rfl

/-- Settles O17: each of the four bytes of the head is an entry of `toNat_senseResponse_head`, and the rest is the
padding. -/
theorem senseResponseLayout : Obligations.SenseResponseLayout := fun cap n hn =>
  ⟨length_senseResponse cap hn,
    toNat_senseResponse_head cap n (k := 0) (by decide), toNat_senseResponse_head cap n (k := 1) (by decide),
    toNat_senseResponse_head cap n (k := 2) (by decide), toNat_senseResponse_head cap n (k := 3) (by decide),
    fun _ => getElem?_senseResponse_tail cap⟩

end Sys2Proof.Machine
end

section
/-! The encoding (R90 to R101): the decoder and the encoder are inverse to each other, only a wrong length or a foreign
ID is refused, and the rows of the opcode table are told apart by the opcode and the sub-page. -/

namespace Sys2Proof

/-! ## Wire bytes and frame registers -/

/-- Wire bytes decode iff they are six and carry this device's ID. -/
theorem decode_eq_ok_iff (c : Config) (l : List Byte) (i : Instr) :
    decode c l = .ok i ↔ ∃ b0 b1 b2 b3 b4 b5, l = [b0, b1, b2, b3, b4, b5] ∧ idField b0 = c.deviceId ∧
      decodeFrame c ⟨storedOpcode b0, b1, b2, b3, b4, b5⟩ = i := by
  unfold decode
  split
  · next b0 b1 b2 b3 b4 b5 =>
    split
    · next hid => simp [hid]
    · next hid => simp [hid]
  · next hlen =>
    simp only [reduceCtorEq, false_iff, not_exists]
    rintro b0 b1 b2 b3 b4 b5 ⟨rfl, _⟩
    exact hlen _ _ _ _ _ _ rfl

/-- The opcode that `CF[0]` keeps is the opcode of the wire byte. -/
theorem opcField_storedOpcode (raw : Byte) : opcField (storedOpcode raw) = opcField raw := by
  apply BitVec.eq_of_toNat_eq
  simp [opcField, storedOpcode]

/-- The wire byte of an opcode is kept as the frame register that encodes it. -/
theorem storedOpcode_wire (c : Config) (i : Instr) :
    storedOpcode (c.deviceId ++ i.opcode c : BitVec (3 + 5)) = (encodeFrame c i).b0 := by
  rw [storedOpcode, opcField_wire]
  rfl

/-- The ID of a first wire byte is its value divided by 32. -/
theorem idField_toNat (b : Byte) : (idField b).toNat = b.toNat / 32 := by
  have := b.isLt
  simp only [idField, BitVec.extractLsb'_toNat, Nat.shiftRight_eq_div_pow]
  omega

/-- The ID field is a device's iff the byte divided by 32 is its number. -/
theorem idField_eq_iff (b : Byte) (d : DeviceId) : idField b = d ↔ b.toNat / 32 = d.toNat := by
  rw [← idField_toNat, BitVec.toNat_inj]

/-- Settles O1: the wire bytes carry this device's ID and the frame registers of the command, which decode to it. -/
theorem decodeOfEncodeIsTheCommand : Obligations.DecodeOfEncodeIsTheCommand := fun c i hc hw => by
  refine (decode_eq_ok_iff c _ i).2 ⟨_, _, _, _, _, _, rfl, idField_wire c.deviceId (i.opcode c), ?_⟩
  rw [storedOpcode_wire]
  exact decodeFrame_encodeFrame c i hc hw

/-- The wire bytes of the command of a frame are the bytes of the frame, its ID and opcode in byte 0. -/
theorem encode_decodeFrame (c : Config) (f : Frame) :
    encode c (decodeFrame c f) = [(c.deviceId ++ f.opc : BitVec (3 + 5)), f.b1, f.b2, f.b3, f.b4, f.b5] := by
  obtain ⟨h1, h2, h3⟩ := args_bytes f
  simp only [encode, encodeFrame, decodeFrame_opcode, decodeFrame_args, Frame.args, Frame.len, h1, h2, h3]

/-- Settles O2: what six bytes with this device's ID decode to is encoded by the same six bytes. -/
theorem encodeOfDecodeIsTheFrame : Obligations.EncodeOfDecodeIsTheFrame := fun c l i hc hd => by
  obtain ⟨_, hp, _⟩ := (ok_iff c).1 hc
  obtain ⟨b0, b1, b2, b3, b4, b5, rfl, hid, rfl⟩ := (decode_eq_ok_iff c l i).1 hd
  refine ⟨?_, decodeFrame_wf c _ hp⟩
  rw [encode_decodeFrame, Frame.opc, opcField_storedOpcode, ← hid, wire_eta]

/-! ## What is refused -/

/-- Six bytes are refused iff their ID is another device's, and then as foreign. -/
theorem decode_six (c : Config) (b0 b1 b2 b3 b4 b5 : Byte) :
    decode c [b0, b1, b2, b3, b4, b5] ≠ .error .wrongLength ∧
      (decode c [b0, b1, b2, b3, b4, b5] = .error .foreignId ↔ idField b0 ≠ c.deviceId) := by
  by_cases hid : idField b0 = c.deviceId <;> simp [decode, hid]

/-- Bytes that are not six are refused for their length. -/
theorem decode_of_length_ne (c : Config) (l : List Byte) (h : l.length ≠ 6) : decode c l = .error .wrongLength := by
  unfold decode
  split
  · exact absurd rfl h
  · rfl

/-- Settles O3: by the length of the bytes, and for six bytes by their ID. -/
theorem decodeRefusesByLengthAndId : Obligations.DecodeRefusesByLengthAndId := fun c l => by
  by_cases h : l.length = 6
  · obtain ⟨b0, b1, b2, b3, b4, b5, rfl⟩ : ∃ b0 b1 b2 b3 b4 b5, l = [b0, b1, b2, b3, b4, b5] := by
      match l, h with
      | [b0, b1, b2, b3, b4, b5], _ => exact ⟨_, _, _, _, _, _, rfl⟩
    obtain ⟨hlen, hforeign⟩ := decode_six c b0 b1 b2 b3 b4 b5
    refine ⟨by simp [hlen], hforeign.trans ?_⟩
    rw [Ne, idField_eq_iff]
    simp
  · rw [decode_of_length_ne c l h]
    simp [h]

/-! ## The rows of the table -/

/-- A frame decodes to a well-formed command whose opcode and operands it has. -/
theorem decodeFrame_eq_of_wf {c : Config} {f : Frame} {i : Instr} (hc : c.ok = true) (ho : f.opc = i.opcode c)
    (ha : f.args = i.args) (hw : i.wf c = true) : decodeFrame c f = i := by
  obtain ⟨_, hp, _⟩ := (ok_iff c).1 hc
  have hpage : f.page c = (encodeFrame c i).page c := by
    rw [frame_page c f hp, frame_page c _ hp, encodeFrame_args, ha]
  calc decodeFrame c f = decodeFrame c (encodeFrame c i) := by
        simp only [decodeFrame, hpage, ho, ha, encodeFrame_opc, encodeFrame_args]
    _ = i := decodeFrame_encodeFrame c i hc hw

/-- Settles O6: each row's command has the opcode and the operands of the frame and is well-formed. -/
theorem rowsOfTheTableSelectTheirCommands : Obligations.RowsOfTheTableSelectTheirCommands := fun c f hc => by
  have row (i : Instr) (ha : f.args = i.args) (hw : i.wf c = true) (ho : f.opc = i.opcode c) : decodeFrame c f = i :=
    decodeFrame_eq_of_wf hc ho ha hw
  obtain ⟨_, hp, _⟩ := (ok_iff c).1 hc
  have hpage : f.page c = f.args.page c := frame_page c f hp
  exact ⟨row (.testReady _) rfl rfl, row (.requestSense _) rfl rfl, row (.formatDrive _) rfl rfl,
    row (.verifyTrack _) rfl rfl, row (.formatTrack _) rfl rfl, row (.readBlock _) rfl rfl,
    row (.writeBlock _) rfl rfl, row (.seek _) rfl rfl, row (.correction _) rfl rfl, row (.inquiry _) rfl rfl,
    row (.modeSelect _) rfl rfl,
    fun ho h0 => row (.modeSense0 _) rfl (decide_eq_true (hpage ▸ h0)) ho,
    fun ho h4 => row (.modeSense4 _) rfl (decide_eq_true (hpage ▸ h4)) ho,
    row (.ship _) rfl rfl⟩

/-- When an unsupported command is well-formed (R100). -/
theorem unsupported_wf_iff (c : Config) (o : Opc) (a : Args) :
    (Instr.unsupported o a).wf c = true ↔
      (o ∉ c.opc.assigned ∨ (o = c.opc.modeSense ∧ a.page c ≠ page0 ∧ a.page c ≠ page4)) := by
  simp [Instr.wf]

/-- Settles O7: what a frame decodes to is well-formed, and a well-formed command is what its frame decodes to. -/
theorem unsupportedIsEveryOtherEncoding : Obligations.UnsupportedIsEveryOtherEncoding := fun c f hc => by
  obtain ⟨_, hp, _⟩ := (ok_iff c).1 hc
  rw [frame_page c f hp]
  refine Iff.trans ⟨fun hd => ?_, fun hw => ?_⟩ (unsupported_wf_iff c f.opc f.args)
  · rw [← hd]
    exact decodeFrame_wf c f hp
  · exact decodeFrame_eq_of_wf hc rfl rfl hw

/-- Settles O8: the decoder evaluated on each word, under the default numerals. -/
theorem specFramesDecodeToTheirCommands : Obligations.SpecFramesDecodeToTheirCommands := by
  refine ⟨?_, ?_, ?_, ?_, ?_, ?_, ?_, ?_, ?_, ?_, ?_⟩ <;> rfl

end Sys2Proof
end

section
/-! The invariant (R37, R74, R126): every phase starts from the outputs it stands for, so every step keeps the
invariant; and from it a step never stops, since a Send waits for a byte of the buffer. -/

namespace Sys2Proof.Machine

/-! ## The step of each phase under a good configuration -/

theorem step_boot {s : State} (hok : s.cfg.ok = true) (hp : s.phase = .boot) : step s = (bootStep s).next := by
  rw [step, if_pos hok, hp]

theorem step_idle {s : State} (hok : s.cfg.ok = true) (hp : s.phase = .idle) : step s = (idleStep s).next := by
  rw [step, if_pos hok, hp]

theorem step_addressMatch {s : State} (hok : s.cfg.ok = true) (hp : s.phase = .addressMatch) :
    step s = (addressMatchStep s).next := by
  rw [step, if_pos hok, hp]

theorem step_receivingBytes {s : State} {w : Bool} (hok : s.cfg.ok = true) (hp : s.phase = .receivingBytes w) :
    step s = (receiveByteStep w s).next := by
  rw [step, if_pos hok, hp]

theorem step_start {s : State} (hok : s.cfg.ok = true) (hp : s.phase = .dispatching .start) :
    step s = exec (decodeFrame s.cfg s.cf) s := by
  rw [step, if_pos hok, hp]

theorem step_sendAck {s : State} {i n : Nat} {next : AfterSend} (hok : s.cfg.ok = true)
    (hp : s.phase = .dispatching (.sendAck i n next)) : step s = resumeSend i n next s := by
  rw [step, if_pos hok, hp]

theorem step_recvAck {s : State} {i : Nat} (hok : s.cfg.ok = true) (hp : s.phase = .dispatching (.recvAck i)) :
    step s = (resumeReceive i s).next := by
  rw [step, if_pos hok, hp]

theorem step_sendingStatus {s : State} {p : StatusPos} (hok : s.cfg.ok = true) (hp : s.phase = .sendingStatus p) :
    step s = (resumeStatus p s).next := by
  rw [step, if_pos hok, hp]

/-- A Send of at most the buffer is gone on with from its wait. -/
theorem resumeSend_eq {i n : Nat} (next : AfterSend) (hn : n ≤ bufCap) (s : State) :
    resumeSend i n next s =
      (((waitSendAck n next i s).bind (sendFrom n next (n - (i + 1)) (i + 1))).bind (afterSend next)).next :=
  if_pos hn

/-- A step that answers a next state was not refused. -/
theorem ok_of_step {s t : State} (h : step s = .next t) : s.cfg.ok = true := by
  unfold step at h
  split at h
  · assumption
  · cases h

/-- Outputs known one by one are the outputs of the state. -/
theorem at_of_common {d : DataDrive} {q : IrqDrive} {l g k : Bool} {s : State} (hc : s.common) (hl : s.led = l)
    (hg : s.guard = g) (hd : s.dOut = d) (hq : s.irqOut = q) (hk : s.statusDone = k) :
    At { d := d, irq := q, led := l, guard := g } k s :=
  ⟨hc, by simp only [State.outputs, hl, hg, hd, hq], hk⟩

/-- A sequence that keeps the invariant however it ends leaves a state that meets it. -/
theorem inv_of_keeps {f : Flow State} (h : Keeps f) {t : State} (ht : f.next = .next t) : t.Inv :=
  Host.Outcome.next.inj ht ▸ sat_state h

/-- Settles O55: each phase's outputs are those its step starts from, and each step keeps the invariant from there. -/
theorem stepKeepsTheInvariant : Obligations.StepKeepsTheInvariant := by
  intro s t ⟨hc, hphase⟩ ht
  have hok := ok_of_step ht
  unfold State.phaseOk at hphase
  cases hp : s.phase with
  | boot =>
    rw [hp] at hphase
    obtain ⟨hl, hg, hd, hq⟩ := hphase
    exact inv_of_keeps (bootStep_keeps (at_of_common hc hl hg hd hq rfl)) (step_boot hok hp ▸ ht)
  | idle =>
    rw [hp] at hphase
    obtain ⟨hl, hg, hd, hq⟩ := hphase
    exact inv_of_keeps (idleStep_keeps (at_of_common hc hl hg hd hq rfl)) (step_idle hok hp ▸ ht)
  | addressMatch =>
    rw [hp] at hphase
    obtain ⟨hl, hg, hd, hq⟩ := hphase
    exact inv_of_keeps (addressMatchStep_keeps (at_of_common hc hl hg hd hq rfl)) (step_addressMatch hok hp ▸ ht)
  | receivingBytes w =>
    rw [hp] at hphase
    obtain ⟨hl, hg, hd, hq, hbi⟩ := hphase
    exact inv_of_keeps (receiveByteStep_keeps w (at_of_common hc hl hg hd hq rfl) hbi)
      (step_receivingBytes hok hp ▸ ht)
  | complete =>
    rw [hp] at hphase
    obtain ⟨hl, hg, hd, hq⟩ := hphase
    exact inv_of_keeps (completeStep_keeps (at_of_common hc hl hg hd hq rfl)) (step_complete hok hp ▸ ht)
  | dispatching pos =>
    rw [hp] at hphase
    cases pos with
    | start =>
      obtain ⟨hl, hg, hd, hq, hk⟩ := hphase
      obtain ⟨f, hf, hkeeps⟩ := exec_keeps (decodeFrame s.cfg s.cf) (at_of_common hc hl hg hd hq hk)
      exact inv_of_keeps hkeeps (hf ▸ step_start hok hp ▸ ht)
    | sendAck i n next =>
      obtain ⟨hl, hg, hd, hq, hi, hn, hk⟩ := hphase
      exact inv_of_keeps (resumeSend_keeps next hi hn (at_of_common hc hl hg hd hq hk) rfl)
        (resumeSend_eq next hn s ▸ step_sendAck hok hp ▸ ht)
    | recvAck i =>
      obtain ⟨hl, hg, hd, hq, hi, hk⟩ := hphase
      exact inv_of_keeps (resumeReceive_keeps hi (at_of_common hc hl hg hd hq hk)) (step_recvAck hok hp ▸ ht)
  | sendingStatus p =>
    rw [hp] at hphase
    obtain ⟨hl, hg, hd, hq, hk⟩ := hphase
    obtain ⟨code, hcode, hd⟩ : ∃ code, (code = statusOk ∨ code = statusErr) ∧ s.dOut = .drive code :=
      hd.elim (fun h => ⟨_, .inl rfl, h⟩) fun h => ⟨_, .inr rfl, h⟩
    exact inv_of_keeps (resumeStatus_keeps hcode p (at_of_common hc hl hg hd hq hk)) (step_sendingStatus hok hp ▸ ht)

/-- Settles O56: the values of the reset state, an empty buffer and an empty record. -/
theorem resetIsTheTableOfR37 : Obligations.ResetIsTheTableOfR37 := by
  have hcommon : State.reset.common := ⟨wf_nil, Nat.zero_le _, by decide, rfl, rfl, rfl⟩
  exact ⟨rfl, rfl, rfl, rfl, rfl, rfl, rfl, hcommon, rfl, rfl, rfl, rfl⟩

/-- Every command from its first line on is a sequence of atomic steps, after its prologue (R231). -/
theorem exec_eq_prologue (i : Instr) : ∃ body : State → Flow State, ∀ s, exec i s = (prologue body s).next := by
  cases i <;> exact ⟨_, fun _ => rfl⟩

/-- Settles O57: the invariant bounds the length of a Send, the only thing a step asks for. -/
theorem stepNeverStops : Obligations.StepNeverStops := by
  intro s ⟨_, hphase⟩ hok
  cases hp : s.phase with
  | boot => exact ⟨_, step_boot hok hp⟩
  | idle => exact ⟨_, step_idle hok hp⟩
  | addressMatch => exact ⟨_, step_addressMatch hok hp⟩
  | receivingBytes w => exact ⟨_, step_receivingBytes hok hp⟩
  | complete => exact ⟨_, step_complete hok hp⟩
  | sendingStatus p => exact ⟨_, step_sendingStatus hok hp⟩
  | dispatching pos =>
    cases pos with
    | start =>
      obtain ⟨body, hbody⟩ := exec_eq_prologue (decodeFrame s.cfg s.cf)
      exact ⟨_, (step_start hok hp).trans (hbody s)⟩
    | sendAck i n next =>
      rw [State.phaseOk, hp] at hphase
      obtain ⟨_, _, _, _, _, hn, _⟩ := hphase
      exact ⟨_, (step_sendAck hok hp).trans (resumeSend_eq next hn s)⟩
    | recvAck i => exact ⟨_, step_recvAck hok hp⟩

/-! ## The step and the dispatch -/

/-- Settles O9: the step decodes the frame registers, which hold the encoding of the command or the frame of the
word. -/
theorem stepRunsTheDecodedCommand : Obligations.StepRunsTheDecodedCommand := by
  intro s i hok
  refine ⟨fun hw hp hcf => ?_, fun nbits w hcfg hword => ?_⟩
  · rw [step_start hok hp, hcf, decodeFrame_encodeFrame s.cfg i hok hw]
  · have hi : decodeFrame Config.default (frameOfWord nbits w) = i := by
      unfold decodeTableWord at hword
      split at hword
      · exact Option.some.inj hword
      · cases hword
    have hstart := step_start (s := s.withFetchWord nbits w) hok rfl
    rwa [show (s.withFetchWord nbits w).cf = frameOfWord nbits w from rfl,
      show (s.withFetchWord nbits w).cfg = Config.default from hcfg, hi] at hstart

/-- Settles O10: distinct opcodes are the first thing a step asks of its configuration. -/
theorem stepRefusesAmbiguousOpcodes : Obligations.StepRefusesAmbiguousOpcodes := by
  intro s hdup
  exact if_neg fun hok => hdup ((ok_iff s.cfg).1 hok).1

end Sys2Proof.Machine
end

section
/-! What the commands without a block transfer do (R231 to R267, R290): each is one change of the engine after its
prologue, whatever the peer's lines do meanwhile. -/

namespace Sys2Proof.Machine

variable {p : Pins}

/-! ## The prologue -/

/-- A command on a device that is ready after its prologue is its body (R231). -/
theorem prologue_yields {body : State → Flow State} {s0 s u0 : State} (h : Tracks p s0 s)
    (hr : (prologued s0).dsReady = true) (hb : ∀ t, Tracks p (prologued s0) t → Yields p (body t) u0) :
    Yields p (prologue body s) u0 := by
  obtain ⟨t, ht, hk⟩ := prologue_goes_on body h hr
  rw [ht]
  exact hb t hk

/-- A command on a device that is not ready and whose `init` fails is an error (R231, R325). -/
theorem prologue_yields_notReady (body : State → Flow State) {s0 s : State} (h : Tracks p s0 s)
    (hl : s0.cfg.statusWait = .level) (hc : p.cs = .deasserted) (hr : s0.dsReady = false)
    (hf : (nextReply s0).ok = false) :
    Yields p (prologue body s) (finished statusErr (State.record (.raised .notReady) (reinit s0))) := by
  rw [prologue, tracks_dsReady h, hr]
  refine yieldsV_bind (initDevice_yields h) fun t ht => ?_
  simp only [hf]
  exact raiseError_yields _ ht (by rwa [reinit_cfg]) hc

/-- What a command leaves when its sequence is told without the peer's lines. -/
theorem exec_engine {i : Instr} {s u0 : State} {f : Flow State} (hi : exec i s = f.next) (h : Yields p f u0) :
    ∃ t, exec i s = .next t ∧ t.engine = u0.engine := by
  obtain ⟨t, ht, he, _⟩ := next_of_yields h
  exact ⟨t, hi.trans ht, he⟩

/-! ## The bodies -/

/-- The class of `Initialize` (R236). -/
theorem forceInit_yields {s0 s : State} (h : Tracks p s0 s) (hl : s0.cfg.statusWait = .level)
    (hc : p.cs = .deasserted) :
    Yields p (forceInit s)
      (if (nextReply s0).ok = true then finished statusOk (reinit s0)
       else finished statusErr (State.record (.raised .storageFatal) (reinit s0))) := by
  have hl' : (reinit s0).cfg.statusWait = .level := by rwa [reinit_cfg]
  refine yieldsV_bind (initDevice_yields h) fun t ht => ?_
  cases (nextReply s0).ok
  · exact raiseError_yields _ ht hl' hc
  · exact sendSuccess_yields ht hl' hc

/-- The bytes of the buffer sent as a response, then the success status. -/
theorem sendResponse_yields (n : Nat) {s0 s : State} (h : Tracks p s0 s) (hl : s0.cfg.statusWait = .level)
    (ha : p.ack = .asserted) (hc : p.cs = .deasserted) :
    Yields p (sendResponse n s) (finished statusOk (sent (Memory.bytes s0.buf n) s0)) :=
  yields_bind (send_yields n .status h ha) fun _ ht => sendSuccess_yields ht hl hc

/-- A response put into the buffer and sent, as far as it goes (R260, R265, R266). -/
theorem respond_yields (l : List Byte) {n : Nat} (hn : n ≤ l.length) {s0 s : State} (h : Tracks p s0 s)
    (hl : s0.cfg.statusWait = .level) (ha : p.ack = .asserted) (hc : p.cs = .deasserted) :
    Yields p (respond l n s) (finished statusOk (sent (l.take n) (memWrite l s0))) := by
  refine yields_bind (act_yields (memWrite_op l) h) fun t ht => ?_
  have hsent := sendResponse_yields n ht hl ha hc
  rwa [memWrite_buf, bytes_writeBytes s0.buf l n hn] at hsent

/-- The length of a Request-Sense response covers what is sent of it. -/
theorem le_length_senseResponse (cap : BitVec 32) (n : Nat) : n ≤ (senseResponse cap (senseLength n)).length := by
  have hlen : (senseResponse cap (senseLength n)).length = max n 4 := length_senseResponse cap (Nat.le_max_right n 4)
  rw [hlen]
  exact Nat.le_max_left n 4

/-- The body of Request-Sense (R260). -/
theorem requestSense_yields (n : Nat) {s0 s : State} (h : Tracks p s0 s) (hl : s0.cfg.statusWait = .level)
    (ha : p.ack = .asserted) (hc : p.cs = .deasserted) :
    Yields p (requestSense n s)
      (finished statusOk (sent ((senseResponse (reinit s0).dsCapacity (senseLength n)).take n)
        (memWrite (senseResponse (reinit s0).dsCapacity (senseLength n)) (reinit s0)))) := by
  refine yieldsV_bind (initDevice_yields h) fun t ht => ?_
  show Yields p (respond (senseResponse t.dsCapacity (senseLength n)) n t) _
  rw [tracks_dsCapacity ht]
  exact respond_yields _ (le_length_senseResponse _ n) ht (by rwa [reinit_cfg]) ha hc

/-- An Inquiry response has the length that was asked for (R262). -/
theorem length_inquiryResponse (c : Config) (n : Nat) : (inquiryResponse c n).length = n := by
  have hrec : (inquiryRecord c).length = inqLen := by simp [inquiryRecord, inqHeader, inqLen]
  simp only [inquiryResponse, List.length_append, List.length_take, List.length_replicate, hrec]
  omega

/-- The body of Inquiry (R262). -/
theorem inquiry_yields (n : Nat) {s0 s : State} (h : Tracks p s0 s) (hl : s0.cfg.statusWait = .level)
    (ha : p.ack = .asserted) (hc : p.cs = .deasserted) :
    Yields p (inquiry n s)
      (finished statusOk (sent (inquiryResponse s0.cfg n) (memWrite (inquiryResponse s0.cfg n) s0))) := by
  rw [inquiry, tracks_cfg h]
  refine yields_bind (storeBytes_yields (inquiryResponse s0.cfg n) 0 h) fun t ht => ?_
  have hlen := length_inquiryResponse s0.cfg n
  have hbytes := bytes_writeBytes s0.buf (inquiryResponse s0.cfg n) n (Nat.le_of_eq hlen.symm)
  rw [List.take_of_length_le (Nat.le_of_eq hlen)] at hbytes
  have hsent := sendResponse_yields n ht hl ha hc
  rwa [hbytes] at hsent

theorem length_modePage0 (c : Config) (cap : BitVec 32) : (modePage0 c cap).length = 16 := by
  simp [modePage0]

theorem length_modePage4 (c : Config) (cap : BitVec 32) : (modePage4 c cap).length = 24 := by
  simp [modePage4]

/-- A whole page of `n` bytes, for the capacity of the engine (R265, R266). -/
theorem page_yields {page : Config → BitVec 32 → List Byte} {n : Nat} (hn : ∀ c cap, (page c cap).length = n)
    {s0 s : State} (h : Tracks p s0 s) (hl : s0.cfg.statusWait = .level) (ha : p.ack = .asserted)
    (hc : p.cs = .deasserted) :
    Yields p (respond (page s.cfg s.dsCapacity) n s)
      (finished statusOk (sent (page s0.cfg s0.dsCapacity) (memWrite (page s0.cfg s0.dsCapacity) s0))) := by
  have hlen := hn s0.cfg s0.dsCapacity
  rw [tracks_cfg h, tracks_dsCapacity h]
  have hresp := respond_yields (page s0.cfg s0.dsCapacity) (Nat.le_of_eq hlen.symm) h hl ha hc
  rwa [List.take_of_length_le (Nat.le_of_eq hlen)] at hresp

/-- A block command beyond the capacity (R290, R322). -/
theorem blockCommand_yields_range (loop : Nat → Nat → State → Flow State) {a : Args} {s0 s : State}
    (h : Tracks p s0 s) (hl : s0.cfg.statusWait = .level) (hc : p.cs = .deasserted)
    (hr : s0.dsCapacity.toNat < a.lba.toNat + a.len.toNat) :
    Yields p (blockCommand loop a s) (finished statusErr (State.record (.raised .range) s0)) := by
  have hout : rangeOk a s = false := by
    simpa [rangeOk, tracks_dsCapacity h, blockIndex, countOperand] using hr
  rw [blockCommand, hout]
  exact raiseError_yields _ h hl hc

/-! ## The commands -/

/-- Settles O11: the body of each of the four is the success status. -/
theorem noOpClassOnlySendsSuccess : Obligations.NoOpClassOnlySendsSuccess := by
  intro s a i hi ⟨hl, hn, hc⟩ hr
  have hy := prologue_yields (body := sendSuccess) (tracks_self hn) hr fun t ht =>
    sendSuccess_yields ht (by rwa [prologued_cfg]) hc
  simp only [List.mem_cons, List.not_mem_nil, or_false] at hi
  rcases hi with rfl | rfl | rfl | rfl <;> exact exec_engine rfl hy

/-- Settles O12: the body of each of the four is one forced initialization. -/
theorem initializeClassSucceedsIffInitDoes : Obligations.InitializeClassSucceedsIffInitDoes := by
  intro s a i hi ⟨hl, hn, hc⟩ hr
  have hy := prologue_yields (body := forceInit) (tracks_self hn) hr fun t ht =>
    forceInit_yields ht (by rwa [prologued_cfg]) hc
  simp only [List.mem_cons, List.not_mem_nil, or_false] at hi
  rcases hi with rfl | rfl | rfl | rfl <;> exact exec_engine rfl hy

/-- Settles O13: the body is the error status. -/
theorem unsupportedOnlySendsError : Obligations.UnsupportedOnlySendsError := by
  intro s o a ⟨hl, hn, hc⟩ hr
  exact exec_engine rfl (prologue_yields (tracks_self hn) hr fun t ht =>
    raiseError_yields .unsupportedCommand ht (by rwa [prologued_cfg]) hc)

/-- Settles O14: an initialization, and the response for the capacity it leaves. -/
theorem requestSenseSendsTheCapacity : Obligations.RequestSenseSendsTheCapacity := by
  intro s a ⟨hl, hn, ha, hc⟩ hr
  exact exec_engine rfl (prologue_yields (tracks_self hn) hr fun t ht =>
    requestSense_yields (countOperand a) ht (by rwa [prologued_cfg]) ha hc)

/-- The bytes of an Inquiry response: the record, then zeros (R262, R263). -/
theorem getElem?_inquiryResponse (c : Config) {n k : Nat} (hk : k < n) :
    (inquiryResponse c n)[k]? = some (if k < 36 then (inquiryRecord c).getD k 0x00 else 0x00) := by
  have hrec : (inquiryRecord c).length = 36 := by simp [inquiryRecord, inqHeader]
  unfold inquiryResponse
  split
  · next hlt =>
    have hk' : k < ((inquiryRecord c).take n).length := by simp [hrec]; omega
    rw [List.getElem?_append_left hk', List.getElem?_take_of_lt hk]
    simp [hrec, hlt]
  · next hge =>
    have hk' : ((inquiryRecord c).take n).length ≤ k := by simp [hrec]; omega
    rw [List.getElem?_append_right hk', List.getElem?_replicate_of_lt]
    simp [hrec, inqLen]
    omega

/-- Settles O15: the response for the length of the command, stored byte by byte and sent whole. -/
theorem inquirySendsTheRecord : Obligations.InquirySendsTheRecord := by
  intro s a ⟨hl, hn, ha, hc⟩ hr
  obtain ⟨t, ht, he⟩ := exec_engine (i := .inquiry a) rfl (prologue_yields (tracks_self hn) hr fun t ht =>
    inquiry_yields (countOperand a) ht (by rwa [prologued_cfg]) ha hc)
  rw [prologued_cfg] at he
  exact ⟨t, inquiryResponse s.cfg a.len.toNat, ht, length_inquiryResponse _ _,
    fun k hk => getElem?_inquiryResponse s.cfg hk, he⟩

/-- Settles O16: each page is as long as its fixed length. -/
theorem modeSenseSendsItsWholePage : Obligations.ModeSenseSendsItsWholePage := by
  intro s a ⟨hl, hn, ha, hc⟩ hr
  have hl' : (prologued s).cfg.statusWait = .level := by rwa [prologued_cfg]
  rw [← prologued_cfg s]
  exact ⟨exec_engine rfl (prologue_yields (tracks_self hn) hr fun t ht => page_yields length_modePage0 ht hl' ha hc),
    exec_engine rfl (prologue_yields (tracks_self hn) hr fun t ht => page_yields length_modePage4 ht hl' ha hc)⟩

/-- Settles O20: the range check comes before everything else of the body. -/
theorem rangeErrorTouchesNothing : Obligations.RangeErrorTouchesNothing := by
  intro s a i hi ⟨hl, hn, hc⟩ hr hout
  have hy (loop : Nat → Nat → State → Flow State) := prologue_yields (tracks_self hn) hr fun t ht =>
    blockCommand_yields_range loop ht (by rwa [prologued_cfg]) hc hout
  simp only [List.mem_cons, List.not_mem_nil, or_false] at hi
  rcases hi with rfl | rfl
  · exact exec_engine rfl (hy readLoop)
  · exact exec_engine rfl (hy writeLoop)

/-- Settles O27: every command begins with the prologue. -/
theorem notReadyFailsEveryCommand : Obligations.NotReadyFailsEveryCommand := by
  intro s i ⟨hl, hn, hc⟩ hr hf
  obtain ⟨body, hbody⟩ := exec_eq_prologue i
  exact exec_engine (hbody s) (prologue_yields_notReady body (tracks_self hn) hl hc hr hf)

/-- Settles O28: every command reaches its status within the command, and the handshake ends it. -/
theorem everyCommandEndsInOneStatus : Obligations.EveryCommandEndsInOneStatus := by
  intro s i ⟨hl, hn, ha, hc⟩ hd
  obtain ⟨f, hf, code, u0, u, hcode, rfl, hu, ⟨tr, hlog, hirq⟩, h1, h2, h3, _⟩ := exec_reaches i (tracks_self hn) hd ha
  obtain ⟨t, ht, hend, hlog', _⟩ := sendStatus_ended code hu (by rwa [h1]) hc h1 h2 h3
  refine ⟨t, tr, code, by rw [hf, ht]; rfl, hend, hcode, ?_, hirq⟩
  rw [hlog', hlog, List.reverse_append, List.append_assoc]

end Sys2Proof.Machine
end

section
/-! The layouts of the responses (R263, R265, R266). -/

namespace Sys2Proof.Machine

/-- Settles O18: the record is the concatenation of its fields. -/
theorem inquiryRecordLayout : Obligations.InquiryRecordLayout := by
  intro c
  simp [inquiryRecord, inqHeader, List.drop_append, List.take_append, List.drop_eq_nil_of_le]

/-- A 24-bit field inside a page (R65): its three bytes as numbers, the high one first. -/
theorem getElem?_be24_inside {a : List Byte} {n : Nat} (ha : a.length = n) (l : List Byte) (v : BitVec 32) {j : Nat}
    (hj : j < 3) :
    ((a ++ be24 v ++ l)[n + j]?).map BitVec.toNat =
      [v.toNat / 65536 % 256, v.toNat / 256 % 256, v.toNat % 256][j]? := by
  rw [← ha, List.append_assoc, List.getElem?_append_right (Nat.le_add_right _ _), Nat.add_sub_cancel_left,
    List.getElem?_append_left hj, ← List.getElem?_map, map_toNat_be24]

theorem cylinders_toNat (c : Config) (cap : BitVec 32) :
    (cylinders c cap).toNat = cap.toNat / c.ms4Heads.toNat := by
  have hlt : c.ms4Heads.toNat < 2 ^ 32 := Nat.lt_trans c.ms4Heads.isLt (by decide)
  rw [cylinders, BitVec.toNat_udiv, BitVec.toNat_setWidth, Nat.mod_eq_of_lt hlt]

/-- A list with a part of it replaced by as many elements is elsewhere as it was. -/
theorem getElem?_replaced {α : Type} (t m : List α) {a k : Nat} (hm : a + m.length ≤ t.length)
    (hk : k < a ∨ a + m.length ≤ k) : (t.take a ++ m ++ t.drop (a + m.length))[k]? = t[k]? := by
  have hlen : (t.take a).length = a := by simp; omega
  rcases hk with hk | hk
  · rw [List.append_assoc, List.getElem?_append_left (by omega), List.getElem?_take_of_lt hk]
  · rw [List.getElem?_append_right (by simp; omega), List.getElem?_drop]
    congr 1
    simp
    omega

/-- Page 4 with the cylinders and the heads as one part. -/
theorem modePage4_eq (c : Config) (cap : BitVec 32) :
    modePage4 c cap =
      c.ms4Template.toList.take 2 ++ (be24 (cylinders c cap) ++ [c.ms4Heads]) ++ c.ms4Template.toList.drop (2 + 4) := by
  simp [modePage4]

/-- Settles O19: the fields of each page stand between two parts of its template. -/
theorem modePageLayout : Obligations.ModePageLayout := by
  intro c cap
  have hcap {j : Nat} (hj : j < 3) :
      ((modePage0 c cap)[5 + j]?).map BitVec.toNat =
        [cap.toNat / 65536 % 256, cap.toNat / 256 % 256, cap.toNat % 256][j]? :=
    getElem?_be24_inside (a := c.ms0Template.toList.take 5) (by simp) (c.ms0Template.toList.drop 8) cap hj
  have hcyl {j : Nat} (hj : j < 3) :
      ((modePage4 c cap)[2 + j]?).map BitVec.toNat =
        [cap.toNat / c.ms4Heads.toNat / 65536 % 256, cap.toNat / c.ms4Heads.toNat / 256 % 256,
          cap.toNat / c.ms4Heads.toNat % 256][j]? := by
    rw [modePage4, List.append_assoc, ← cylinders_toNat]
    exact getElem?_be24_inside (a := c.ms4Template.toList.take 2) (by simp) _ (cylinders c cap) hj
  refine ⟨length_modePage0 c cap, length_modePage4 c cap, hcap (j := 0) (by decide), hcap (j := 1) (by decide),
    hcap (j := 2) (by decide), hcyl (j := 0) (by decide), hcyl (j := 1) (by decide), hcyl (j := 2) (by decide), ?_,
    fun k hk => ?_, fun k hk => ?_⟩
  · rw [modePage4_eq, List.append_assoc, List.getElem?_append_right (by simp)]
    simp [be24]
  · exact getElem?_replaced c.ms0Template.toList (be24 cap) (by simp) hk
  · rw [modePage4_eq]
    exact getElem?_replaced c.ms4Template.toList _ (by simp) hk

end Sys2Proof.Machine
end

section
/-! The Bus Signal Layer, the transfers and the handshake under `LEVEL` (R121 to R148, R190): what each does when the
waits end. -/

namespace Sys2Proof.Machine

/-- Settles O36: each primitive is one atomic step, which ends since no reset is scheduled. -/
theorem primitivesSetTheirDrivers : Obligations.PrimitivesSetTheirDrivers := by
  intro s l v n h
  obtain ⟨_, _, hrelease, _⟩ := act_quiet (f := releaseLines l) h
  obtain ⟨_, _, hdrive, _⟩ := act_quiet (f := fun s => State.record (.droveData v) { s with dOut := .drive v }) h
  obtain ⟨_, _, hpulse, _⟩ := act_quiet (f := fun s => drqHigh (State.record (.pulsedDrq n) (drqLow s))) h
  obtain ⟨_, _, hirq, _⟩ := act_quiet (f := fun s => State.record .assertedIrq { s with irqOut := .asserted }) h
  exact ⟨⟨_, hrelease, rfl, rfl, rfl⟩, ⟨_, hdrive, rfl, rfl, rfl⟩, ⟨_, hpulse, rfl, rfl, rfl, rfl⟩,
    ⟨_, hirq, rfl, rfl, rfl⟩⟩

/-- Settles O37: the law `send_yields`, for the engine of the state itself. -/
theorem sendDrivesTheBufferInOrder : Obligations.SendDrivesTheBufferInOrder := by
  intro s n x h ha
  obtain ⟨t, ht, he, _⟩ := send_yields n x (tracks_self h) ha
  exact ⟨t, ht, he⟩

/-- Settles O38: the law `receive_yields`, and what the buffer then reads as. -/
theorem receiveStoresWhatItSamples : Obligations.ReceiveStoresWhatItSamples := by
  intro s n h hd ha
  obtain ⟨l, hl, t, ht, hk⟩ := receive_yields n (tracks_self h) hd ha
  have hbuf : t.buf = Memory.writeBytes s.buf 0 l := tracks_buf hk
  have hread := bytes_writeBytes s.buf l n (Nat.le_of_eq hl.symm)
  rw [List.take_of_length_le (Nat.le_of_eq hl), ← hbuf] at hread
  refine ⟨t, l, ht, hl, hk.1, hread, fun k hle => ?_⟩
  rw [hbuf, read_writeBytes_beyond s.buf k l (hl ▸ hle)]

/-- Settles O41: the law `sendStatus_yields`, for the engine of the state itself. -/
theorem statusHandshakeUnderLevel : Obligations.StatusHandshakeUnderLevel := by
  intro s code h hl hc
  obtain ⟨t, ht, he, _⟩ := sendStatus_yields code (tracks_self h) hl hc
  exact ⟨t, ht, he⟩

end Sys2Proof.Machine
end

section
/-! The Storage Access Layer (R205 to R213): an initialization for given answers, and the retry procedure by its
attempts. -/

namespace Sys2Proof.Machine

variable {p : Pins}

/-! ## Initialization -/

/-- An initialization whose `init` fails (R206). -/
theorem reinit_of_fail {s : State} {r : CollReply} {rs : List CollReply} (hs : s.replies = r :: rs)
    (hr : r.ok = false) :
    reinit s = State.after [.collInit false] { s with dsReady := false, replies := rs } := by
  simp [reinit, nextReply_cons hs, hr, initAnswered, popReply, hs, State.record, State.after]

/-- An initialization whose `init` succeeds (R206). -/
theorem reinit_of_ok {s : State} {r q : CollReply} {qs : List CollReply} (hs : s.replies = r :: q :: qs)
    (hr : r.ok = true) :
    reinit s =
      State.after [.collInit true, .collCapacity q.capacity]
        { s with dsReady := true, dsCapacity := capacityOf q.capacity, replies := qs } := by
  have hleft : (initAnswered s).replies = q :: qs := by simp [hs]
  have hq := nextReply_cons hleft
  simp only [reinit, nextReply_cons hs, hr, capacityAnswered, hq]
  simp [initAnswered, nextReply_cons hs, hr, popReply, hs, State.record, State.after]

/-- An initialization with listed answers, as a change of the engine. -/
theorem initDevice_yields_listed {s0 s : State} {r : CollReply} {rs : List CollReply} (h : Tracks p s0 s)
    (hs : s0.replies = r :: rs) : YieldsV p (initDevice s) r.ok (reinit s0) := by
  have hy := initDevice_yields h
  rwa [nextReply_cons hs] at hy

/-- Settles O44: what an initialization records is `reinit` of the answers, once or twice. -/
theorem initializeRecordsTheAnswers : Obligations.InitializeRecordsTheAnswers := by
  intro s r rs h hs
  have hinit := initDevice_yields_listed (tracks_self h) hs
  refine ⟨fun hr => ?_, fun q qs hr hrs => ?_, fun q r' q' qs hr hr' hcap hrs => ?_⟩
  · obtain ⟨t, ht, he, _⟩ := hinit
    rw [hr] at ht
    exact ⟨t, ht, he.trans (by rw [reinit_of_fail hs hr])⟩
  · obtain ⟨t, ht, he, _⟩ := hinit
    rw [hr] at ht
    rw [hrs] at hs
    exact ⟨t, ht, he.trans (by rw [reinit_of_ok hs hr]; rfl)⟩
  · rw [hrs] at hs
    obtain ⟨t, ht, hk⟩ := hinit
    have hfirst := reinit_of_ok hs hr
    have hleft : (reinit s).replies = r' :: q' :: qs := by rw [hfirst]; rfl
    obtain ⟨u, hu, hk'⟩ := initDevice_yields_listed hk hleft
    have hsecond := reinit_of_ok hleft hr'
    rw [hr] at ht
    rw [hr'] at hu
    refine ⟨t, u, ht, hu, ?_, ?_, ?_⟩
    · rw [tracks_dsReady hk, hfirst]; rfl
    · rw [tracks_dsReady hk', hsecond]; rfl
    · rw [tracks_dsCapacity hk', tracks_dsCapacity hk, hsecond, hfirst]
      simp [hcap]

/-- The boot line (R371). -/
theorem bootStep_yields {s0 s : State} (h : Tracks p s0 s) :
    Yields p (bootStep s) { reinit s0 with phase := .idle } :=
  yieldsV_bind (initDevice_yields h) fun _ ht => act_yields (writePhase_op .idle) ht

/-- Settles O54: one initialization, and `Idle`. -/
theorem bootInitializesOnce : Obligations.BootInitializesOnce := by
  intro s hok h hp
  obtain ⟨t, ht, he, _⟩ := next_of_yields (bootStep_yields (tracks_self h))
  exact ⟨t, (step_boot hok hp).trans ht, he⟩

/-! ## The bounds of the retry procedure -/

/-- A block access, whatever the answers: `retryFrom_yields` after the attempts have been counted anew. -/
theorem retry_yields {op : State → Flow (Bool × State)} {g : State → State} (hop : IsAttempt op g) (s0 : State) :
    ∃ b u tr, (∀ (p : Pins) (s : State), Tracks p s0 s → YieldsV p (retry op s) b u) ∧
      StorageStep s0 u tr ∧ (b = false → u.dsReady = false) ∧ tr.countP Event.isAccess ≤ 5 ∧
      tr.count .wdgService ≤ 4 ∧ tr.countP Event.isInit ≤ 2 := by
  obtain ⟨b, u, tr, hy, hstep, hb, haccess, hservice, hinit⟩ :=
    retryFrom_yields hop retryBound (writeRem retryBound s0)
  refine ⟨b, u, tr, fun p s h => yields_bindV (act_yields (writeRem_op retryBound) h) fun t ht => hy p t ht,
    ?_, hb, haccess, hservice, hinit⟩
  exact storageStep_trans (a := []) ⟨rfl, by simp⟩ hstep

/-- Settles O45: both accesses are attempts of the retry procedure. -/
theorem retryIsBounded : Obligations.RetryIsBounded := by
  intro s b h op hop
  have bounded {op : State → Flow (Bool × State)} {g : State → State} (hop : IsAttempt op g) :
      ∃ (ok : Bool) (t : State) (tr : List Event), retry op s = .done (ok, t) ∧ t.log = tr.reverse ++ s.log ∧
        tr.countP Event.isAccess ≤ 5 ∧ tr.countP Event.isInit ≤ 2 ∧ tr.count .wdgService ≤ 4 ∧
        (∀ e ∈ tr, e.isStorage = true) ∧ (ok = false → t.dsReady = false) ∧
        t.outputs = s.outputs ∧ t.drqOut = s.drqOut ∧ t.cf = s.cf ∧ t.cfg = s.cfg ∧ t.phase = s.phase := by
    obtain ⟨ok, u, tr, hy, ⟨hu, hstorage⟩, hb, haccess, hservice, hinit⟩ := retry_yields hop s
    obtain ⟨t, ht, he, _⟩ := hy _ s (tracks_self h)
    refine ⟨ok, t, tr, ht, ?_, haccess, hinit, hservice, hstorage, fun hf => ?_, ?_, ?_, ?_, ?_, ?_⟩
    · exact Eq.trans (congrArg State.log he :) (congrArg State.log hu :)
    · exact Eq.trans (congrArg State.dsReady he :) (hb hf)
    · exact Eq.trans (congrArg State.outputs he :) (congrArg State.outputs hu :)
    · exact Eq.trans (congrArg State.drqOut he :) (congrArg State.drqOut hu :)
    · exact Eq.trans (congrArg State.cf he :) (congrArg State.cf hu :)
    · exact Eq.trans (congrArg State.cfg he :) (congrArg State.cfg hu :)
    · exact Eq.trans (congrArg State.phase he :) (congrArg State.phase hu :)
  simp only [List.mem_cons, List.not_mem_nil, or_false] at hop
  rcases hop with rfl | rfl
  · exact bounded (collRead_attempt b)
  · exact bounded (collWrite_attempt b)

/-! ## The worked traces -/

section Attempts

variable {op : State → Flow (Bool × State)} {g : State → State} {n : Nat} {s0 s u : State} {b : Bool}

/-- The attempt succeeds (R209). -/
theorem retryFrom_succeeds (hop : IsAttempt op g) (hok : (nextReply s0).ok = true) (h : Tracks p s0 s) :
    YieldsV p (retryFrom op (n + 1) s) true (g s0) := by
  refine yieldsV_bindV (hop.1 p s0 s h) fun t ht => ?_
  simp only [hok, if_true]
  exact yieldsV_done ht

/-- The attempt fails, and with more than half the budget left the gap is all that follows it. -/
theorem retryFrom_gap (hop : IsAttempt op g) (hok : (nextReply s0).ok = false) (hn : retryBound / 2 < n)
    (hnext : ∀ t, Tracks p (gapPassed n (g s0)) t → YieldsV p (retryFrom op n t) b u) (h : Tracks p s0 s) :
    YieldsV p (retryFrom op (n + 1) s) b u := by
  refine yieldsV_bindV (hop.1 p s0 s h) fun t ht => ?_
  simp only [hok, Bool.false_eq_true, if_false, show n ≠ 0 by omega]
  refine yields_bindV (act_yields (writeRem_op n) ht) fun t ht => ?_
  have hgap := retryGap_yields n ht
  simp only [if_neg (Nat.not_le.2 hn)] at hgap
  exact yieldsV_bindV hgap fun t ht => hnext t ht

/-- The attempt fails, and with at most half the budget left the storage is reinitialized, with success. -/
theorem retryFrom_reinit (hop : IsAttempt op g) (hok : (nextReply s0).ok = false) (h0 : n ≠ 0)
    (hn : n ≤ retryBound / 2) (hinit : (nextReply (g s0)).ok = true)
    (hnext : ∀ t, Tracks p (reinit (gapPassed n (g s0))) t → YieldsV p (retryFrom op n t) b u)
    (h : Tracks p s0 s) : YieldsV p (retryFrom op (n + 1) s) b u := by
  refine yieldsV_bindV (hop.1 p s0 s h) fun t ht => ?_
  simp only [hok, Bool.false_eq_true, if_false, h0]
  refine yields_bindV (act_yields (writeRem_op n) ht) fun t ht => ?_
  have hgap := retryGap_yields n ht
  simp only [if_pos hn] at hgap
  refine yieldsV_bindV hgap fun t ht => ?_
  simp only [hinit, if_true]
  exact hnext t ht

/-- The attempt fails, and so does the reinitialization, which ends the access. -/
theorem retryFrom_reinit_fails (hop : IsAttempt op g) (hok : (nextReply s0).ok = false) (h0 : n ≠ 0)
    (hn : n ≤ retryBound / 2) (hinit : (nextReply (g s0)).ok = false) (h : Tracks p s0 s) :
    YieldsV p (retryFrom op (n + 1) s) false (reinit (gapPassed n (g s0))) := by
  refine yieldsV_bindV (hop.1 p s0 s h) fun t ht => ?_
  simp only [hok, Bool.false_eq_true, if_false, h0]
  refine yields_bindV (act_yields (writeRem_op n) ht) fun t ht => ?_
  have hgap := retryGap_yields n ht
  simp only [if_pos hn] at hgap
  refine yieldsV_bindV hgap fun t ht => ?_
  simp only [hinit, Bool.false_eq_true, if_false]
  exact yieldsV_done ht

/-- The last attempt fails. -/
theorem retryFrom_last_fails (hop : IsAttempt op g) (hok : (nextReply s0).ok = false) (h : Tracks p s0 s) :
    YieldsV p (retryFrom op 1 s) false (State.writeReady false (writeRem 0 (g s0))) := by
  refine yieldsV_bindV (hop.1 p s0 s h) fun t ht => ?_
  simp only [hok, Bool.false_eq_true, if_false, if_true]
  exact yields_bindV (act_yields (writeRem_op 0) ht) fun t ht => setReady_yields false ht

end Attempts

/-- A write of block `b` with `n` attempts left: in an engine with configuration `c` and buffer `m`, whose device is
ready as `r` says, the answers `rs` make the procedure record `tr` and come to the result `res`, with the device ready
as `r'` says, `rest` the answers left and the buffer as it was. -/
def Retries (b : Nat) (c : Config) (m : Memory) (n : Nat) (rs : List CollReply) (r : Bool) (tr : List Event)
    (res r' : Bool) (rest : List CollReply) : Prop :=
  ∀ s0 : State, s0.cfg = c → s0.buf = m → s0.replies = rs → s0.dsReady = r →
    ∃ u, (∀ p s, Tracks p s0 s → YieldsV p (retryFrom (collWrite b) n s) res u) ∧ u.log = tr.reverse ++ s0.log ∧
      u.dsReady = r' ∧ u.replies = rest ∧ u.buf = m

section WorkedTraces

variable {b : Nat} {c : Config} {m : Memory} {n : Nat} {tr : List Event} {res r r' : Bool} {f i q : CollReply}
  {rs rest : List CollReply}

theorem retries_succeeds (hq : q.ok = true) :
    Retries b c m (n + 1) (q :: rest) r [.collWrite b (Memory.bytes m 512) true] true r rest := by
  intro s0 hc hm hs hr
  refine ⟨writeAnswered b s0, fun _ _ => retryFrom_succeeds (collWrite_attempt b) (nextReply_cons hs ▸ hq), ?_, hr,
    by simp [hs], hm⟩
  simp [nextReply_cons hs, hq, hm, blockSize]

theorem retries_gap (hf : f.ok = false) (hn : retryBound / 2 < n) (hnext : Retries b c m n rs r tr res r' rest) :
    Retries b c m (n + 1) (f :: rs) r ([.collWrite b (Memory.bytes m 512) false] ++ gapTrace c ++ tr) res r' rest := by
  intro s0 hc hm hs hr
  obtain ⟨u, hy, hlog, hu⟩ := hnext (gapPassed n (writeAnswered b s0)) hc hm (by simp [hs]) hr
  refine ⟨u, fun p s => retryFrom_gap (collWrite_attempt b) (nextReply_cons hs ▸ hf) hn (hy p), ?_, hu⟩
  simp [hlog, nextReply_cons hs, hf, hm, hc, blockSize]

theorem retries_reinit (hf : f.ok = false) (hi : i.ok = true) (h0 : n ≠ 0) (hn : n ≤ retryBound / 2)
    (hnext : Retries b c m n rs true tr res r' rest) :
    Retries b c m (n + 1) (f :: i :: q :: rs) r
      ([.collWrite b (Memory.bytes m 512) false] ++ gapTrace c ++ [.collInit true, .collCapacity q.capacity] ++ tr)
      res r' rest := by
  intro s0 hc hm hs hr
  have hleft : (gapPassed n (writeAnswered b s0)).replies = i :: q :: rs := by simp [hs]
  have hinit : (nextReply (writeAnswered b s0)).ok = true := by
    rw [nextReply_cons (s := writeAnswered b s0) hleft, hi]
  have hre := reinit_of_ok hleft hi
  obtain ⟨u, hy, hlog, hu⟩ := hnext (reinit (gapPassed n (writeAnswered b s0))) (by simp [hc]) (by simp [hm])
    (by rw [hre]; rfl) (by rw [hre]; rfl)
  refine ⟨u, fun p s => retryFrom_reinit (collWrite_attempt b) (nextReply_cons hs ▸ hf) h0 hn hinit (hy p), ?_, hu⟩
  rw [hlog, hre]
  simp [nextReply_cons hs, hf, hm, hc, blockSize]

theorem retries_reinit_fails (hf : f.ok = false) (hi : i.ok = false) (h0 : n ≠ 0) (hn : n ≤ retryBound / 2) :
    Retries b c m (n + 1) (f :: i :: rest) r
      ([.collWrite b (Memory.bytes m 512) false] ++ gapTrace c ++ [.collInit false]) false false rest := by
  intro s0 hc hm hs hr
  have hleft : (gapPassed n (writeAnswered b s0)).replies = i :: rest := by simp [hs]
  have hinit : (nextReply (writeAnswered b s0)).ok = false := by
    rw [nextReply_cons (s := writeAnswered b s0) hleft, hi]
  refine ⟨_, fun p s => retryFrom_reinit_fails (collWrite_attempt b) (nextReply_cons hs ▸ hf) h0 hn hinit, ?_⟩
  rw [reinit_of_fail hleft hi]
  exact ⟨by simp [nextReply_cons hs, hf, hm, hc, blockSize], rfl, rfl, hm⟩

theorem retries_last_fails (hf : f.ok = false) :
    Retries b c m 1 (f :: rest) r [.collWrite b (Memory.bytes m 512) false] false false rest := by
  intro s0 hc hm hs hr
  refine ⟨_, fun _ _ => retryFrom_last_fails (collWrite_attempt b) (nextReply_cons hs ▸ hf), ?_, rfl, by simp [hs], hm⟩
  simp [nextReply_cons hs, hf, hm, blockSize]

end WorkedTraces

/-- A write of a block is its attempts, counted anew. -/
theorem writeBlock_of_retries {b : Nat} {s : State} {rs rest : List CollReply} {tr : List Event} {res r : Bool}
    (h : NoReset s) (hs : s.replies = rs) (hr : Retries b s.cfg s.buf retryBound rs s.dsReady tr res r rest) :
    ∃ u, writeBlock b s = .done (res, u) ∧ u.log = tr.reverse ++ s.log ∧ u.dsReady = r ∧ u.replies = rest ∧
      u.buf = s.buf := by
  obtain ⟨u, hy, hlog, hready, hrest, hbuf⟩ := hr (writeRem retryBound s) rfl rfl hs rfl
  obtain ⟨t, ht, he, _⟩ := yields_bindV (act_yields (writeRem_op retryBound) (tracks_self h)) fun t ht => hy _ t ht
  exact ⟨t, ht, (congrArg State.log he :).trans hlog, (congrArg State.dsReady he :).trans hready,
    (congrArg State.replies he :).trans hrest, (congrArg State.buf he :).trans hbuf⟩

/-- Settles O46: each row is its attempts, one after another. -/
theorem retryFollowsTheWorkedTraces : Obligations.RetryFollowsTheWorkedTraces := by
  intro s b f t h hf ht w g i j row hrow rest hs
  have four := fun {tr res r' rs} =>
    retries_gap (b := b) (c := s.cfg) (m := s.buf) (r := s.dsReady) (tr := tr) (res := res) (r' := r') (rs := rs)
      (rest := rest) (n := 4) hf (by decide)
  have three := fun {tr res r' rs} =>
    retries_gap (b := b) (c := s.cfg) (m := s.buf) (r := s.dsReady) (tr := tr) (res := res) (r' := r') (rs := rs)
      (rest := rest) (n := 3) hf (by decide)
  simp only [List.mem_cons, List.not_mem_nil, or_false] at hrow
  rcases hrow with rfl | rfl | rfl | rfl | rfl | rfl | rfl <;> apply writeBlock_of_retries h hs <;>
    simp only [List.append_assoc, List.cons_append, List.nil_append]
  · exact retries_succeeds ht
  · exact four (retries_succeeds ht)
  · exact four <| three <| retries_succeeds ht
  · exact four <| three <| retries_reinit hf ht (by decide) (by decide) <| retries_succeeds ht
  · exact four <| three <| retries_reinit_fails hf hf (by decide) (by decide)
  · exact four <| three <| retries_reinit hf ht (by decide) (by decide) <|
      retries_reinit hf ht (by decide) (by decide) <| retries_last_fails hf
  · exact four <| three <| retries_reinit hf ht (by decide) (by decide) <|
      retries_reinit_fails hf hf (by decide) (by decide)

end Sys2Proof.Machine
end

section
/-! The block commands with given answers of the collaborator (R291, R292): every block succeeds, or the blocks before
one that cannot be accessed do. -/

namespace Sys2Proof.Machine

variable {p : Pins}

/-! ## In range -/

/-- In range a block command is its loop, after the count of blocks has been written (R290, R25). -/
theorem blockCommand_in_range (loop : Nat → Nat → State → Flow State) {a : Args} {s0 s : State} (h : Tracks p s0 s)
    (hr : a.lba.toNat + a.len.toNat ≤ s0.dsCapacity.toNat) :
    ∃ t, blockCommand loop a s = loop a.len.toNat a.lba.toNat t ∧ Tracks p (writeCnt a.len.toNat s0) t := by
  have hin : rangeOk a s = true := by simpa [rangeOk, tracks_dsCapacity h, blockIndex, countOperand] using hr
  obtain ⟨t, ht, hk⟩ := act_yields (writeCnt_op a.len.toNat) h
  refine ⟨t, ?_, hk⟩
  rw [blockCommand, hin, if_pos rfl]
  exact congrArg (fun f : Flow State => f.bind (loop a.len.toNat a.lba.toNat)) ht

/-- The same behind the prologue of a device that is ready after it. -/
theorem prologue_block_in_range (loop : Nat → Nat → State → Flow State) {a : Args} {s : State} (h : NoReset s)
    (hr : (prologued s).dsReady = true) (hin : a.lba.toNat + a.len.toNat ≤ (prologued s).dsCapacity.toNat) :
    ∃ t, prologue (blockCommand loop a) s = loop a.len.toNat a.lba.toNat t ∧
      Tracks (restPins s.pins s.env) (writeCnt a.len.toNat (prologued s)) t := by
  obtain ⟨u, hu, hk⟩ := prologue_goes_on (blockCommand loop a) (tracks_self h) hr
  obtain ⟨t, ht, hk'⟩ := blockCommand_in_range loop hk hin
  exact ⟨t, hu.trans ht, hk'⟩

/-- What is `Between` two blocks of a command is so from the end of the prologue on. -/
theorem between_prologued {s u : State} {n : Nat} {tr : List Event} {rest : List CollReply} {m : Memory}
    (k : Between (writeCnt n (prologued s)) u tr rest m) :
    u.cfg = s.cfg ∧ u.cf = s.cf ∧ u.bi = s.bi := by
  have hcfg := k.cfg
  have hcf := k.cf
  have hbi := k.bi
  simp only [writeCnt_cfg, writeCnt_cf, writeCnt_bi, prologued_cfg, prologued_cf, prologued_bi] at hcfg hcf hbi
  exact ⟨hcfg, hcf, hbi⟩

/-! ## Every block succeeds -/

/-- Settles O21: as many successful iterations as there are blocks, then the success status. -/
theorem readBlockSendsEveryBlock : Obligations.ReadBlockSendsEveryBlock := by
  intro s a rs rest ⟨hl, hn, ha, hc⟩ hr hin hs hlen hok
  obtain ⟨t, ht, hk⟩ := prologue_block_in_range readLoop hn hr hin
  obtain ⟨u0, u, hu, hk', hb⟩ := readLoop_blocks rs rest 0 a.lba.toNat hk ha hs hok
  obtain ⟨hcfg, hcf, hbi⟩ := between_prologued hb
  obtain ⟨v, hv, hend, hlog, hrep, hdraws, hready, hcap, hbuf⟩ :=
    sendStatus_ended statusOk hk' (by rwa [hcfg]) hc hcfg hcf hbi
  have hflow : prologue (blockCommand readLoop a) s = .done v := by
    rw [ht, ← hlen]
    exact hu.trans hv
  refine ⟨v, congrArg Flow.next hflow, hend, ?_, hrep.trans hb.replies, hdraws.trans hb.draws,
    (hready.trans hb.ready).trans hr, hcap.trans hb.capacity, ?_⟩
  · rw [hlog, hb.log, writeCnt_cfg, writeCnt_log, prologued_cfg, List.reverse_append, List.append_assoc]
    rfl
  · rw [hbuf, hb.buf, writeCnt_buf, prologued_buf]

/-- Settles O24: as many successful iterations as there are blocks, then the success status. -/
theorem writeBlockWritesWhatItReceives : Obligations.WriteBlockWritesWhatItReceives := by
  intro s a rs rest ⟨hl, hn, ha, hc⟩ hr hd hin hs hlen hok
  obtain ⟨t, ht, hk⟩ := prologue_block_in_range writeLoop hn hr hin
  have hd' : (writeCnt a.len.toNat (prologued s)).dOut = .released := by simpa using hd
  obtain ⟨u0, u, ds, hu, hk', _, hds, hlens, hb⟩ := writeLoop_blocks rs rest 0 a.lba.toNat hk ha hd' hs hok
  obtain ⟨hcfg, hcf, hbi⟩ := between_prologued hb
  obtain ⟨v, hv, hend, hlog, hrep, hdraws, hready, hcap, hbuf⟩ :=
    sendStatus_ended statusOk hk' (by rwa [hcfg]) hc hcfg hcf hbi
  have hflow : prologue (blockCommand writeLoop a) s = .done v := by
    rw [ht, ← hlen]
    exact hu.trans hv
  refine ⟨v, ds, congrArg Flow.next hflow, hend, hds.trans hlen, hlens, ?_, hrep.trans hb.replies,
    hdraws.trans hb.draws, (hready.trans hb.ready).trans hr, hcap.trans hb.capacity, ?_⟩
  · rw [hlog, hb.log, writeCnt_cfg, writeCnt_log, prologued_cfg, List.reverse_append, List.append_assoc]
    rfl
  · rw [hbuf, hb.buf, writeCnt_buf, prologued_buf]

/-! ## A block that cannot be accessed -/

/-- A failed call of the access `g` is recorded as `E` says, in every attempt alike, and leaves the answers after it. -/
structure FailsAs (g : State → State) (E : State → Event) : Prop where
  log : ∀ s, (nextReply s).ok = false → (g s).log = E s :: s.log
  again : ∀ s, E (g s) = E s
  sameBuf : ∀ s u : State, u.buf = s.buf → E u = E s
  replies : ∀ s, (g s).replies = s.replies.tail
  capacity : ∀ s, (g s).dsCapacity = s.dsCapacity
  cfg : ∀ s, (g s).cfg = s.cfg
  cf : ∀ s, (g s).cf = s.cf
  bi : ∀ s, (g s).bi = s.bi

theorem readAnswered_failsAs (b : Nat) : FailsAs (readAnswered b) fun _ => .collRead b false where
  log s hf := by simp [hf]
  again _ := rfl
  sameBuf _ _ _ := rfl
  replies _ := rfl
  capacity _ := rfl
  cfg _ := rfl
  cf _ := rfl
  bi _ := rfl

theorem writeAnswered_failsAs (b : Nat) :
    FailsAs (writeAnswered b) fun s => .collWrite b (Memory.bytes s.buf blockSize) false where
  log s hf := by simp [hf]
  again _ := rfl
  sameBuf _ _ h := by rw [h]
  replies _ := rfl
  capacity _ := rfl
  cfg _ := rfl
  cf _ := rfl
  bi _ := rfl

/-- One failed attempt and its gap. -/
theorem gapPassed_failed {g : State → State} {E : State → Event} (hg : FailsAs g E) (n : Nat) {s : State}
    {x : CollReply} {rs : List CollReply} (hs : s.replies = x :: rs) (hx : x.ok = false) :
    (gapPassed n (g s)).log = ([E s] ++ gapTrace s.cfg).reverse ++ s.log ∧ (gapPassed n (g s)).replies = rs ∧
      E (gapPassed n (g s)) = E s ∧ (gapPassed n (g s)).cfg = s.cfg := by
  refine ⟨?_, ?_, ?_, hg.cfg s⟩
  · rw [gapPassed_log, hg.log s (by rw [nextReply_cons hs, hx]), hg.cfg]
    simp
  · rw [gapPassed_replies, hg.replies, hs]
    rfl
  · exact (hg.sameBuf (g s) (gapPassed n (g s)) rfl).trans (hg.again s)

/-- The engine after an access of which every call fails (R210, R211). -/
theorem fatal_failed {g : State → State} {E : State → Event} (hg : FailsAs g E) {s : State} {x y z w : CollReply}
    {rest : List CollReply} (hs : s.replies = x :: y :: z :: w :: rest) (hx : x.ok = false) (hy : y.ok = false)
    (hz : z.ok = false) (hw : w.ok = false) :
    (fatal g s).log = (fatalTrace s.cfg (E s)).reverse ++ s.log ∧ (fatal g s).replies = rest ∧
      (fatal g s).dsReady = false ∧ (fatal g s).dsCapacity = s.dsCapacity ∧ (fatal g s).cfg = s.cfg ∧
      (fatal g s).cf = s.cf ∧ (fatal g s).bi = s.bi := by
  have h0 : E (writeRem retryBound s) = E s := hg.sameBuf s _ rfl
  obtain ⟨log1, rep1, ev1, cfg1⟩ := gapPassed_failed hg 4 (s := writeRem retryBound s) hs hx
  obtain ⟨log2, rep2, ev2, cfg2⟩ := gapPassed_failed hg 3 rep1 hy
  obtain ⟨log3, rep3, ev3, cfg3⟩ := gapPassed_failed hg 2 rep2 hz
  refine ⟨?_, ?_, ?_, ?_, ?_, ?_, ?_⟩ <;> rw [fatal, reinit_of_fail rep3 hw]
  · rw [after_log]
    simp only [log3, log2, log1, cfg2, cfg1, ev2, ev1, h0, writeRem_log, writeRem_cfg, fatalTrace]
    simp
  · rfl
  · rfl
  · simp [hg.capacity]
  · simp [hg.cfg]
  · simp [hg.cf]
  · simp [hg.bi]

/-- Settles O22: the successful iterations, then one whose access fails for good. -/
theorem readBlockStopsAtAFatalBlock : Obligations.ReadBlockStopsAtAFatalBlock := by
  intro s a rs rest x y z w ⟨hl, hn, ha, hc⟩ hr hin hs hlen hok hx hy hz hw
  obtain ⟨n, hlen⟩ : ∃ n, a.len.toNat = rs.length + (n + 1) := ⟨a.len.toNat - rs.length - 1, by omega⟩
  obtain ⟨t, ht, hk⟩ := prologue_block_in_range readLoop hn hr hin
  obtain ⟨u0, u, hu, hku, hb⟩ := readLoop_blocks rs (x :: y :: z :: w :: rest) (n + 1) a.lba.toNat hk ha hs hok
  obtain ⟨hcfg, hcf, hbi⟩ := between_prologued hb
  obtain ⟨v, hv, hkv⟩ := blockHead_yields (a.lba.toNat + rs.length) hku
  obtain ⟨flog, frep, fready, fcap, fcfg, fcf, fbi⟩ := fatal_failed (readAnswered_failsAs (a.lba.toNat + rs.length))
    (s := State.record .wdgService (writeBlk (a.lba.toNat + rs.length) u0)) hb.replies hx hy hz hw
  obtain ⟨q, hq, hkq⟩ := retry_fatal (collRead_attempt (a.lba.toNat + rs.length)) (fun _ => rfl) hkv hb.replies
    hx hy hz hw
  obtain ⟨o, ho, hend, olog, orep, _, oready, ocap, _⟩ :=
    sendStatus_ended (s0 := s) statusErr (tracks_op (record_op (.raised .storageFatal)) hkq)
      ((congrArg Config.statusWait (fcfg.trans hcfg)).trans hl) hc
      (fcfg.trans hcfg) (fcf.trans hcf) (fbi.trans hbi)
  have hflow : prologue (blockCommand readLoop a) s = .done o := by
    rw [ht, hlen, hu, readLoop, hv, bind_done, readBlock, hq, bind_done]
    exact ho
  refine ⟨o, congrArg Flow.next hflow, hend, ?_, orep.trans frep, oready.trans fready,
    ocap.trans (fcap.trans hb.capacity)⟩
  rw [olog, record_log, flog, record_cfg, record_log, writeBlk_log, writeBlk_cfg, hcfg, hb.log]
  simp [statusErr]

/-- Settles O25: the successful iterations, then one that receives its block and whose access fails for good. -/
theorem writeBlockStopsAtAFatalBlock : Obligations.WriteBlockStopsAtAFatalBlock := by
  intro s a rs rest x y z w ⟨hl, hn, ha, hc⟩ hr hd hin hs hlen hok hx hy hz hw
  obtain ⟨n, hlen⟩ : ∃ n, a.len.toNat = rs.length + (n + 1) := ⟨a.len.toNat - rs.length - 1, by omega⟩
  obtain ⟨t, ht, hk⟩ := prologue_block_in_range writeLoop hn hr hin
  have hd' : (writeCnt a.len.toNat (prologued s)).dOut = .released := by simpa using hd
  obtain ⟨u0, u, ds, hu, hku, hdu, hds, hlens, hb⟩ :=
    writeLoop_blocks rs (x :: y :: z :: w :: rest) (n + 1) a.lba.toNat hk ha hd' hs hok
  obtain ⟨hcfg, hcf, hbi⟩ := between_prologued hb
  obtain ⟨v, hv, hkv⟩ := blockHead_yields (a.lba.toNat + rs.length) hku
  obtain ⟨d, hdlen, r, hrecv, hkr⟩ := receive_yields blockSize hkv hdu ha
  generalize hr0 : stored d (State.record .wdgService (writeBlk (a.lba.toNat + rs.length) u0)) = r0 at hkr
  have hleft : r0.replies = x :: y :: z :: w :: rest := by rw [← hr0]; exact hb.replies
  have hdata : Memory.bytes r0.buf blockSize = d := by
    rw [← hr0, stored_buf, bytes_writeBytes _ d _ (Nat.le_of_eq hdlen.symm),
      List.take_of_length_le (Nat.le_of_eq hdlen)]
  obtain ⟨flog, frep, fready, fcap, fcfg, fcf, fbi⟩ :=
    fatal_failed (writeAnswered_failsAs (a.lba.toNat + rs.length)) hleft hx hy hz hw
  obtain ⟨q, hq, hkq⟩ := retry_fatal (collWrite_attempt (a.lba.toNat + rs.length)) (fun _ => rfl) hkr hleft hx hy hz hw
  subst hr0
  obtain ⟨o, ho, hend, olog, orep, _, oready, ocap, _⟩ :=
    sendStatus_ended (s0 := s) statusErr (tracks_op (record_op (.raised .storageFatal)) hkq)
      ((congrArg Config.statusWait (fcfg.trans hcfg)).trans hl) hc
      (fcfg.trans hcfg) (fcf.trans hcf) (fbi.trans hbi)
  have hflow : prologue (blockCommand writeLoop a) s = .done o := by
    rw [ht, hlen, hu, writeLoop, hv, bind_done, hrecv, bind_done, storeBlock, writeBlock, hq, bind_done]
    exact ho
  refine ⟨o, ds, d, congrArg Flow.next hflow, hend, hds, hlens, hdlen, ?_, orep.trans frep, oready.trans fready,
    ocap.trans (fcap.trans hb.capacity)⟩
  rw [olog, record_log, flog, hdata, stored_log, stored_cfg, record_cfg, record_log, writeBlk_log, writeBlk_cfg, hcfg,
    hb.log]
  simp [statusErr]

end Sys2Proof.Machine
end

section
/-! The block commands with any answers of the collaborator (R294, R390): the loops come to their status after whole
blocks, and Read-block to the same one whatever the peer's lines do. -/

namespace Sys2Proof.Machine

variable {p : Pins}

/-! ## Counting bytes in a record -/

/-- A byte driven on the data lines. -/
def Event.isDrive : Event → Bool
  | .droveData _ => true
  | _            => false

/-- A byte sampled from the data lines. -/
def Event.isSample : Event → Bool
  | .sampledData _ => true
  | _              => false

/-- A block access has no byte on the lines. -/
theorem countP_storage {tr : List Event} (h : ∀ e ∈ tr, e.isStorage = true) :
    tr.countP Event.isDrive = 0 ∧ tr.countP Event.isSample = 0 := by
  refine ⟨List.countP_eq_zero.2 fun e he => ?_, List.countP_eq_zero.2 fun e he => ?_⟩ <;>
  · have hs := h e he
    cases e <;> simp_all [Event.isStorage, Event.isDrive, Event.isSample]

/-- A Send drives as many bytes as it sends. -/
theorem countP_sendTrace (c : Config) (l : List Byte) : (sendTrace c l).countP Event.isDrive = l.length := by
  have hbytes : (l.flatMap (sendByteTrace c)).countP Event.isDrive = l.length := by
    induction l with
    | nil => rfl
    | cons v l ih => simp [sendByteTrace, Event.isDrive, List.countP_cons, ih]
  simp [sendTrace, Event.isDrive, hbytes]

/-- A Receive samples as many bytes as it receives. -/
theorem countP_recvTrace (c : Config) (l : List Byte) : (recvTrace c l).countP Event.isSample = l.length := by
  have hbytes : (l.flatMap (recvByteTrace c)).countP Event.isSample = l.length := by
    induction l with
    | nil => rfl
    | cons v l ih => simp [recvByteTrace, Event.isSample, List.countP_cons, ih]
  simp [recvTrace, Event.isSample, hbytes]

/-! ## The way to the status -/

/-- `u` is reached from `s` inside a command, with `tr` recorded on the way. -/
def Passed (s u : State) (tr : List Event) : Prop := Within s u ∧ u.log = tr.reverse ++ s.log

theorem passed_refl (s : State) : Passed s s [] := ⟨within_refl s, rfl⟩

theorem passed_trans {s u v : State} {a b : List Event} (h : Passed s u a) (k : Passed u v b) : Passed s v (a ++ b) :=
  ⟨within_trans h.1 k.1, by rw [k.2, h.2, List.reverse_append, List.append_assoc]⟩

theorem passed_storage {s u : State} {tr : List Event} (h : StorageStep s u tr) : Passed s u tr :=
  ⟨within_storage h, (congrArg State.log h.1 :)⟩

theorem passed_blockHead (b : Nat) (s : State) : Passed s (State.record .wdgService (writeBlk b s)) [.wdgService] :=
  ⟨within_blockHead b s, rfl⟩

theorem passed_writeCnt (n : Nat) (s : State) : Passed s (writeCnt n s) [] := ⟨within_writeCnt n s, rfl⟩

theorem passed_sent (l : List Byte) (s : State) : Passed s (sent l s) (sendTrace s.cfg l) := ⟨within_sent l s, rfl⟩

theorem passed_stored (l : List Byte) (s : State) : Passed s (stored l s) (recvTrace s.cfg l) :=
  ⟨⟨⟨recvTrace s.cfg l, rfl, by simp [recvTrace, recvByteTrace]⟩, rfl, rfl, rfl, fun _ => rfl⟩, rfl⟩

theorem passed_raised (k : ErrorKind) (s : State) : Passed s (State.record (.raised k) s) [.raised k] :=
  ⟨within_record s (by simp), rfl⟩

/-- How a loop of `n` blocks comes to its status, in engine `u` with `tr` recorded: either every block was transferred,
or `j` blocks were accessed and one could not be, `extra` more than `j` having been transferred. The bytes on the lines
are those `q` counts. -/
def LoopEnds (q : Event → Bool) (extra n : Nat) (s : State) (code : Byte) (u : State) (tr : List Event) : Prop :=
  (code = statusOk ∧ tr.countP q = 512 * n ∧ Passed s u tr) ∨
    (code = statusErr ∧ u.dsReady = false ∧ (∃ j < n, tr.countP q = 512 * (j + extra)) ∧
      Passed s u (tr ++ [.raised .storageFatal]))

/-- A whole block before the rest of a loop. -/
theorem loopEnds_after {q : Event → Bool} {extra n : Nat} {s v u : State} {code : Byte} {a tr : List Event}
    (h : Passed s v a) (ha : a.countP q = 512) (k : LoopEnds q extra n v code u tr) :
    LoopEnds q extra (n + 1) s code u (a ++ tr) := by
  rcases k with ⟨hcode, hcount, hpass⟩ | ⟨hcode, hready, ⟨j, hj, hcount⟩, hpass⟩
  · exact .inl ⟨hcode, by rw [List.countP_append]; omega, passed_trans h hpass⟩
  · exact .inr ⟨hcode, hready, ⟨j + 1, by omega, by rw [List.countP_append]; omega⟩,
      by rw [List.append_assoc]; exact passed_trans h hpass⟩

/-- A block that cannot be accessed. -/
theorem loopEnds_fails {q : Event → Bool} {extra n : Nat} {s v : State} {a : List Event} (h : Passed s v a)
    (ha : a.countP q = 512 * extra) (hr : v.dsReady = false) :
    LoopEnds q extra (n + 1) s statusErr (State.record (.raised .storageFatal) v) a :=
  .inr ⟨rfl, hr, ⟨0, Nat.succ_pos n, by rw [ha, Nat.zero_add]⟩, passed_trans h (passed_raised _ v)⟩

/-- A block command in range ends where its loop comes to its status. -/
theorem exec_of_loopEnds {q : Event → Bool} {extra : Nat} {s t u0 u : State} {a : Args} {code : Byte}
    {tr : List Event} {i : Instr} {loop : Nat → Nat → State → Flow State}
    (hi : exec i s = (prologue (blockCommand loop a) s).next) (hl : s.cfg.statusWait = .level)
    (hc : p.cs = .deasserted) (ht : prologue (blockCommand loop a) s = loop a.len.toNat a.lba.toNat t)
    (hu : loop a.len.toNat a.lba.toNat t = sendStatus code u) (hk : Tracks p u0 u)
    (hend : LoopEnds q extra a.len.toNat (writeCnt a.len.toNat (prologued s)) code u0 tr) :
    ∃ o, exec i s = .next o ∧ Ended s o ∧
      ((tr.countP q = 512 * a.len.toNat ∧ o.log = (tr ++ statusTrace 0x00).reverse ++ (prologued s).log) ∨
        ∃ j < a.len.toNat, tr.countP q = 512 * (j + extra) ∧ o.dsReady = false ∧
          o.log = (tr ++ [Event.raised .storageFatal] ++ statusTrace 0x02).reverse ++ (prologued s).log) := by
  have hwithin : Within (writeCnt a.len.toNat (prologued s)) u0 := by
    rcases hend with ⟨_, _, hpass⟩ | ⟨_, _, _, hpass⟩ <;> exact hpass.1
  obtain ⟨_, hcfg, hcf, hbi, _⟩ := hwithin
  simp only [writeCnt_cfg, writeCnt_cf, writeCnt_bi, prologued_cfg, prologued_cf, prologued_bi] at hcfg hcf hbi
  obtain ⟨o, ho, hended, hlog, _, _, hready, _⟩ := sendStatus_ended code hk (by rwa [hcfg]) hc hcfg hcf hbi
  refine ⟨o, hi.trans (by rw [ht, hu, ho]; rfl), hended, ?_⟩
  rcases hend with ⟨rfl, hcount, hpass⟩ | ⟨rfl, hnot, ⟨j, hj, hcount⟩, hpass⟩
  · refine .inl ⟨hcount, ?_⟩
    rw [hlog, hpass.2, List.reverse_append, List.append_assoc]
    rfl
  · refine .inr ⟨j, hj, hcount, hready.trans hnot, ?_⟩
    simp [hlog, hpass.2, statusErr]

/-! ## Read-block -/

/-- The loop of Read-block comes to its status, the same one and in the same engine whatever the peer's lines do. -/
theorem readLoop_ends (n b : Nat) (s0 : State) :
    ∃ code u0 tr, LoopEnds Event.isDrive 0 n s0 code u0 tr ∧ ∀ p s, p.ack = .asserted → Tracks p s0 s →
      ∃ u, readLoop n b s = sendStatus code u ∧ Tracks p u0 u := by
  induction n generalizing b s0 with
  | zero => exact ⟨statusOk, s0, [], .inl ⟨rfl, rfl, passed_refl s0⟩, fun p s _ h => ⟨s, rfl, h⟩⟩
  | succ n ih =>
    obtain ⟨ok, v, tr, hy, hstep, hfail, _⟩ :=
      retry_yields (collRead_attempt b) (State.record .wdgService (writeBlk b s0))
    have hpass := passed_trans (passed_blockHead b s0) (passed_storage hstep)
    have hcount : ([Event.wdgService] ++ tr).countP Event.isDrive = 0 := by
      simp [Event.isDrive, (countP_storage hstep.2).1]
    cases ok with
    | false =>
      refine ⟨statusErr, _, _, loopEnds_fails hpass hcount (hfail rfl), fun p s _ h => ?_⟩
      obtain ⟨t1, e1, h1⟩ := blockHead_yields b h
      obtain ⟨t2, e2, h2⟩ := hy p t1 h1
      exact ⟨_, by rw [readLoop, e1, bind_done, readBlock, e2, bind_done]; rfl, tracks_op (record_op _) h2⟩
    | true =>
      have hblock : (sendTrace v.cfg (Memory.bytes v.buf blockSize)).countP Event.isDrive = 512 := by
        rw [countP_sendTrace, length_bytes]
        rfl
      obtain ⟨code, u0, tr', hend, hrest⟩ := ih (b + 1) (writeCnt n (sent (Memory.bytes v.buf blockSize) v))
      have hsent := passed_trans (passed_trans hpass (passed_sent (Memory.bytes v.buf blockSize) v))
        (passed_writeCnt n _)
      refine ⟨code, u0, _, loopEnds_after hsent ?_ hend, fun p s ha h => ?_⟩
      · rw [List.append_nil, List.countP_append, hcount, hblock]
      · obtain ⟨t1, e1, h1⟩ := blockHead_yields b h
        obtain ⟨t2, e2, h2⟩ := hy p t1 h1
        obtain ⟨t3, e3, h3⟩ := send_yields blockSize .readLoop h2 ha
        obtain ⟨t4, e4, h4⟩ := act_yields (writeCnt_op n) h3
        obtain ⟨u, hu, hk⟩ := hrest p t4 ha h4
        refine ⟨u, ?_, hk⟩
        rw [readLoop, e1, bind_done, readBlock, e2, bind_done]
        simp only [if_true, e3, bind_done, e4, hu]

/-- Settles O23: the loop ends after whole blocks, of which each drove its 512 bytes. -/
theorem readBlockSendsWholeBlocks : Obligations.ReadBlockSendsWholeBlocks := by
  intro s a ⟨hl, hn, ha, hc⟩ hr hin
  obtain ⟨t, ht, hk⟩ := prologue_block_in_range readLoop hn hr hin
  obtain ⟨code, u0, tr, hend, hrun⟩ := readLoop_ends a.len.toNat a.lba.toNat (writeCnt a.len.toNat (prologued s))
  obtain ⟨u, hu, hku⟩ := hrun _ t ha hk
  have hdrive : tr.countP (fun e => e matches .droveData _) = tr.countP Event.isDrive :=
    List.countP_congr fun e _ => by cases e <;> rfl
  obtain ⟨o, ho, hended, ⟨hcount, hlog⟩ | ⟨j, hj, hcount, hready, hlog⟩⟩ :=
    exec_of_loopEnds (i := .readBlock a) rfl hl hc ht hu hku hend
  · exact ⟨o, tr, a.len.toNat, ho, hended, hdrive.trans hcount, .inl ⟨rfl, hlog⟩⟩
  · exact ⟨o, tr, j, ho, hended, hdrive.trans hcount, .inr ⟨hj, hlog, hready⟩⟩

/-! ## Write-block -/

/-- The loop of Write-block comes to its status. -/
theorem writeLoop_ends (n b : Nat) {s0 s : State} (h : Tracks p s0 s) (hd : s0.dOut = .released)
    (ha : p.ack = .asserted) :
    ∃ code u0 u tr, LoopEnds Event.isSample 1 n s0 code u0 tr ∧ writeLoop n b s = sendStatus code u ∧
      Tracks p u0 u := by
  induction n generalizing b s s0 with
  | zero => exact ⟨statusOk, s0, s, [], .inl ⟨rfl, rfl, passed_refl s0⟩, rfl, h⟩
  | succ n ih =>
    obtain ⟨t1, e1, h1⟩ := blockHead_yields b h
    obtain ⟨l, hl, t2, e2, h2⟩ := receive_yields blockSize h1 hd ha
    obtain ⟨ok, v, tr, hy, hstep, hfail, _⟩ := retry_yields (collWrite_attempt b) (stored l _)
    obtain ⟨t3, e3, h3⟩ := hy p t2 h2
    have hpass := passed_trans (passed_trans (passed_blockHead b s0) (passed_stored l _)) (passed_storage hstep)
    have hcount : ([Event.wdgService] ++ recvTrace s0.cfg l ++ tr).countP Event.isSample = 512 := by
      simp [Event.isSample, countP_recvTrace, (countP_storage hstep.2).2, hl, blockSize]
    cases ok with
    | false =>
      refine ⟨statusErr, _, _, _, loopEnds_fails hpass hcount (hfail rfl), ?_, tracks_op (record_op _) h3⟩
      rw [writeLoop, e1, bind_done, e2, bind_done, storeBlock, writeBlock, e3, bind_done]
      rfl
    | true =>
      obtain ⟨t4, e4, h4⟩ := act_yields (writeCnt_op n) h3
      have hcnt := passed_trans hpass (passed_writeCnt n v)
      obtain ⟨code, u0, u, tr', hend, hu, hk⟩ := ih (b + 1) h4 (hcnt.1.2.2.2.2 hd)
      refine ⟨code, u0, u, _, loopEnds_after hcnt (by rw [List.append_nil]; exact hcount) hend, ?_, hk⟩
      rw [writeLoop, e1, bind_done, e2, bind_done, storeBlock, writeBlock, e3, bind_done]
      simp only [if_true, e4, bind_done, hu]

/-- Settles O26: the loop ends after whole blocks, of which each sampled its 512 bytes. -/
theorem writeBlockReceivesWholeBlocks : Obligations.WriteBlockReceivesWholeBlocks := by
  intro s a ⟨hl, hn, ha, hc⟩ hr hd hin
  obtain ⟨t, ht, hk⟩ := prologue_block_in_range writeLoop hn hr hin
  have hd' : (writeCnt a.len.toNat (prologued s)).dOut = .released := by simpa using hd
  obtain ⟨code, u0, u, tr, hend, hu, hku⟩ := writeLoop_ends a.len.toNat a.lba.toNat hk hd' ha
  have hsample : tr.countP (fun e => e matches .sampledData _) = tr.countP Event.isSample :=
    List.countP_congr fun e _ => by cases e <;> rfl
  obtain ⟨o, ho, hended, ⟨hcount, hlog⟩ | ⟨j, hj, hcount, hready, hlog⟩⟩ :=
    exec_of_loopEnds (i := .writeBlock a) rfl hl hc ht hu hku hend
  · exact ⟨o, tr, a.len.toNat, ho, hended, hsample.trans hcount, .inl ⟨rfl, hlog⟩⟩
  · exact ⟨o, tr, j + 1, ho, hended, hsample.trans hcount, .inr ⟨Nat.succ_pos j, hj, hlog, hready⟩⟩

end Sys2Proof.Machine
end

section
/-! The peer's timing (R8, R71): a command that receives nothing leaves an engine that depends on the engine it starts
from alone. -/

namespace Sys2Proof.Machine

/-- With a cooperative peer, whatever its lines do, the sequence leaves the engine `u0` when it starts from `s0`. -/
def Settles (c : State → Flow State) (s0 u0 : State) : Prop :=
  ∀ p s, p.ack = .asserted → p.cs = .deasserted → Tracks p s0 s → Yields p (c s) u0

variable {s0 : State}

/-- The prologue settles, and then the body if the device is ready. -/
theorem prologue_settles (body : State → Flow State) (hl : s0.cfg.statusWait = .level)
    (hb : (prologued s0).dsReady = true → ∃ u0, Settles body (prologued s0) u0) :
    ∃ u0, Settles (prologue body) s0 u0 := by
  cases hr : (prologued s0).dsReady with
  | true =>
    obtain ⟨u0, hu⟩ := hb hr
    exact ⟨u0, fun p s ha hc h => prologue_yields h hr fun t ht => hu p t ha hc ht⟩
  | false =>
    have h0 : s0.dsReady = false := by
      cases hs : s0.dsReady
      · rfl
      · rw [prologued, if_pos hs, hs] at hr
        cases hr
    have hf : (nextReply s0).ok = false := by
      rwa [prologued, h0, if_neg Bool.false_ne_true, reinit_dsReady] at hr
    exact ⟨_, fun p s _ hc h => prologue_yields_notReady body h hl hc h0 hf⟩

/-- The loop of Read-block settles. -/
theorem readLoop_settles (n b : Nat) (hl : s0.cfg.statusWait = .level) : ∃ u0, Settles (readLoop n b) s0 u0 := by
  obtain ⟨code, u0, tr, hend, hrun⟩ := readLoop_ends n b s0
  have hcfg : u0.cfg = s0.cfg := by
    rcases hend with ⟨_, _, ⟨_, hcfg, _⟩, _⟩ | ⟨_, _, _, ⟨_, hcfg, _⟩, _⟩ <;> exact hcfg
  refine ⟨finished code u0, fun p s ha hc h => ?_⟩
  obtain ⟨u, hu, hk⟩ := hrun p s ha h
  rw [hu]
  exact sendStatus_yields code hk (by rwa [hcfg]) hc

/-- A block command settles if it is out of range or its loop settles. -/
theorem blockCommand_settles (loop : Nat → Nat → State → Flow State) (a : Args) (hl : s0.cfg.statusWait = .level)
    (hb : a.lba.toNat + a.len.toNat ≤ s0.dsCapacity.toNat →
      ∃ u0, Settles (loop a.len.toNat a.lba.toNat) (writeCnt a.len.toNat s0) u0) :
    ∃ u0, Settles (blockCommand loop a) s0 u0 := by
  by_cases hin : a.lba.toNat + a.len.toNat ≤ s0.dsCapacity.toNat
  · obtain ⟨u0, hu⟩ := hb hin
    refine ⟨u0, fun p s ha hc h => ?_⟩
    obtain ⟨t, ht, hk⟩ := blockCommand_in_range loop h hin
    rw [ht]
    exact hu p t ha hc hk
  · exact ⟨_, fun p s _ hc h => blockCommand_yields_range loop h hl hc (Nat.not_le.1 hin)⟩

/-- Every command that receives nothing settles. -/
theorem exec_settles (i : Instr) (hl : s0.cfg.statusWait = .level)
    (hw : ∀ a, i = .writeBlock a → (prologued s0).dsReady = false ∨ a.len = 0 ∨
      (prologued s0).dsCapacity.toNat < a.lba.toNat + a.len.toNat) :
    ∃ (c : State → Flow State) (u0 : State), (∀ s, exec i s = (c s).next) ∧ Settles c s0 u0 := by
  have hl' : (prologued s0).cfg.statusWait = .level := by rwa [prologued_cfg]
  have ofBody {body : State → Flow State} (hi : ∀ s, exec i s = (prologue body s).next)
      (hb : (prologued s0).dsReady = true → ∃ u0, Settles body (prologued s0) u0) :
      ∃ (c : State → Flow State) (u0 : State), (∀ s, exec i s = (c s).next) ∧ Settles c s0 u0 := by
    obtain ⟨u0, hu⟩ := prologue_settles body hl hb
    exact ⟨_, u0, hi, hu⟩
  cases i with
  | testReady a | formatDrive a | verifyTrack a | formatTrack a =>
    exact ofBody (fun _ => rfl) fun _ => ⟨_, fun p s _ hc h => forceInit_yields h hl' hc⟩
  | seek a | correction a | modeSelect a | ship a =>
    exact ofBody (fun _ => rfl) fun _ => ⟨_, fun p s _ hc h => sendSuccess_yields h hl' hc⟩
  | unsupported o a =>
    exact ofBody (fun _ => rfl) fun _ => ⟨_, fun p s _ hc h => raiseError_yields _ h hl' hc⟩
  | requestSense a =>
    exact ofBody (fun _ => rfl) fun _ => ⟨_, fun p s ha hc h => requestSense_yields _ h hl' ha hc⟩
  | inquiry a =>
    exact ofBody (fun _ => rfl) fun _ => ⟨_, fun p s ha hc h => inquiry_yields _ h hl' ha hc⟩
  | modeSense0 a =>
    exact ofBody (fun _ => rfl) fun _ => ⟨_, fun p s ha hc h => page_yields length_modePage0 h hl' ha hc⟩
  | modeSense4 a =>
    exact ofBody (fun _ => rfl) fun _ => ⟨_, fun p s ha hc h => page_yields length_modePage4 h hl' ha hc⟩
  | readBlock a =>
    exact ofBody (fun _ => rfl) fun _ => blockCommand_settles readLoop a hl' fun _ => readLoop_settles _ _ hl'
  | writeBlock a =>
    refine ofBody (fun _ => rfl) fun hr => blockCommand_settles writeLoop a hl' fun hin => ?_
    rcases hw a rfl with hnot | h0 | hout
    · rw [hr] at hnot
      cases hnot
    · rw [h0]
      exact ⟨_, fun p s _ hc h => sendSuccess_yields h hl' hc⟩
    · omega

/-- Settles O32: both peers meet the same engine, which settles. -/
theorem peerTimingHasNoPart : Obligations.PeerTimingHasNoPart := by
  intro s u t v i hw ⟨hl, hn, ha, hc⟩ ⟨_, hn', ha', hc'⟩ he ht hv
  obtain ⟨c, u0, hexec, hsettles⟩ := exec_settles i hl hw
  obtain ⟨t', ht', hk⟩ := next_of_yields (hsettles _ s ha hc (tracks_self hn))
  obtain ⟨v', hv', hk'⟩ := next_of_yields (hsettles _ u ha' hc' ⟨he.symm, hn', rfl⟩)
  obtain rfl : t' = t := Host.Outcome.next.inj (ht'.symm.trans ((hexec s).symm.trans ht))
  obtain rfl : v' = v := Host.Outcome.next.inj (hv'.symm.trans ((hexec u).symm.trans hv))
  exact hk.1.trans hk'.1.symm

end Sys2Proof.Machine
end

section
/-! Which entry of the schedule each atomic step takes (R8, log 1): a sequence of `n` atomic steps finds the peer's
lines as its `n`-th entry leaves them. -/

namespace Sys2Proof.Machine

/-- The state when `n` entries of its schedule have come, none of them a reset. -/
def State.moved (n : Nat) (s : State) : State := { s with pins := pinsAt n s, env := s.env.drop n }

/-- The sequence takes `n` entries of the schedule, none of them a reset, and changes the engine by `f`. -/
def Does (n : Nat) (c : State → Flow State) (f : State → State) : Prop :=
  ∀ s : State, EnvEvent.watchdog ∉ s.env.take n → c s = .done (f (s.moved n))

/-- The lines after some entries and then others. -/
theorem restPins_append (p : Pins) (a b : List EnvEvent) : restPins p (a ++ b) = restPins (restPins p a) b := by
  induction a generalizing p with
  | nil => rfl
  | cons e a ih => cases e <;> exact ih _

theorem moved_moved (n m : Nat) (s : State) : (s.moved n).moved m = s.moved (n + m) := by
  simp [State.moved, pinsAt, List.take_add, restPins_append]

/-- A change of the engine leaves the environment alone. -/
theorem engineOp_env {f : State → State} (hf : EngineOp f) (s : State) :
    (f s).pins = s.pins ∧ (f s).env = s.env := by
  have h : f s = { f s with pins := s.pins, env := s.env } := (hf s s.pins s.env).1
  exact ⟨(congrArg State.pins h :), (congrArg State.env h :)⟩

theorem engineOp_moved {f : State → State} (hf : EngineOp f) (n : Nat) (s : State) :
    (f s).moved n = f (s.moved n) := by
  obtain ⟨hp, he⟩ := engineOp_env hf s
  rw [State.moved, pinsAt, hp, he]
  exact (hf s _ _).1.symm

theorem tick_moved {s : State} (h : EnvEvent.watchdog ∉ s.env.take 1) : tick s = .done (s.moved 1) := by
  obtain ⟨env, henv⟩ : ∃ env, s.env = env := ⟨_, rfl⟩
  have hs : s = { s with env := env } := by rw [← henv]
  rw [henv] at h
  rw [hs]
  cases env with
  | nil => rfl
  | cons e es =>
    cases e with
    | peer p => rfl
    | watchdog => simp at h

theorem act_does {f : State → State} : Does 1 (act f) f := fun s h => by rw [act, tick_moved h, bind_done]

theorem does_bind {n m : Nat} {c d : State → Flow State} {f g : State → State} (hc : Does n c f) (hf : EngineOp f)
    (hd : Does m d g) : Does (n + m) (fun s => (c s).bind d) fun s => g (f s) := fun s h => by
  rw [List.take_add, List.mem_append, not_or] at h
  obtain ⟨hn, hm⟩ := h
  have hd' := hd (f (s.moved n)) (by rw [(engineOp_env hf _).2]; exact hm)
  show (c s).bind d = _
  rw [hc s hn, bind_done, hd', engineOp_moved hf, moved_moved]

/-- No reset is scheduled, so none is among the next entries. -/
theorem noReset_take {s : State} (h : NoReset s) (n : Nat) : EnvEvent.watchdog ∉ s.env.take n :=
  fun hm => h (List.mem_of_mem_take hm)

theorem noReset_moved {s : State} (h : NoReset s) (n : Nat) : NoReset (s.moved n) :=
  fun hm => h (List.mem_of_mem_drop hm)

variable {γ : Type}

/-- A scheduled move is what the next atomic step finds, and what follows the step goes on from there. -/
theorem act_bind_peer {f : State → State} {g : State → Flow γ} {r : Flow γ} {s : State} {p : Pins} {es : List EnvEvent}
    (h : s.env = .peer p :: es) (hg : g (f { s with pins := p, env := es }) = r) : (act f s).bind g = r := by
  rw [act, tick, h]
  exact hg

theorem dataLines_released {s : State} (h : s.dOut = .released) : dataLines s = (s.pins.data, s) := by
  rw [dataLines, h]

theorem act_peer {f : State → State} {s : State} {p : Pins} {es : List EnvEvent} (h : s.env = .peer p :: es) :
    act f s = .done (f { s with pins := p, env := es }) := by
  rw [act, tick, h, bind_done]

/-- A sample of released lines reads the byte that a scheduled move puts on them. -/
theorem sampleData_bind_peer {g : Byte × State → Flow γ} {r : Flow γ} {s : State} {p : Pins} {es : List EnvEvent}
    (h : s.env = .peer p :: es) (hd : s.dOut = .released)
    (hg : g (p.data, State.record (.sampledData p.data) { s with pins := p, env := es }) = r) :
    (sampleData s).bind g = r := by
  rw [sampleData, tick, h, bind_done, dataLines_released (by exact hd)]
  exact hg

/-- A wait goes over the moves that do not end it and ends at the first that does. -/
theorem spinUntil_bind_past {w : WaitKind} {ph : Phase} {g : State → Flow γ} {r : Flow γ} {s : State} {ws : List Pins}
    {a : Pins} {rest : List EnvEvent} (h : s.env = ws.map .peer ++ .peer a :: rest)
    (hw : ∀ p ∈ ws, w.holds p = false) (ha : w.holds a = true)
    (hg : g (State.record (.waited w) { s with pins := a, env := rest }) = r) : (spinUntil w ph s).bind g = r := by
  rw [spinUntil, h, spinOver_past w ph a rest ha ws s hw]
  exact hg

theorem holds_ack {p : Pins} : (WaitKind.ackAsserted.holds p = true ↔ p.ack = .asserted) ∧
    (WaitKind.ackAsserted.holds p = false ↔ p.ack = .deasserted) := by
  cases h : p.ack <;> simp [WaitKind.holds, h]

theorem holds_csAsserted {p : Pins} : (WaitKind.csAsserted.holds p = true ↔ p.cs = .asserted) ∧
    (WaitKind.csAsserted.holds p = false ↔ p.cs = .deasserted) := by
  cases h : p.cs <;> simp [WaitKind.holds, h]

theorem holds_csDeasserted {p : Pins} : (WaitKind.csDeasserted.holds p = true ↔ p.cs = .deasserted) ∧
    (WaitKind.csDeasserted.holds p = false ↔ p.cs = .asserted) := by
  cases h : p.cs <;> simp [WaitKind.holds, h]

end Sys2Proof.Machine
end

section
/-! The waits and the samples at given moves of the peer (R142, R144, R193). -/

namespace Sys2Proof.Machine

/-- A `Receive` of one byte over moves that let its acknowledge wait end comes to the end of the transfer, having stored
the byte of the third. -/
theorem receive_one {s : State} {g q d m r : Pins} {ws : List Pins} {es : List EnvEvent} (hd : s.dOut = .released)
    (hws : ∀ w ∈ ws, w.ack = .deasserted) (hr : r.ack = .asserted)
    (henv : s.env = .peer g :: .peer q :: .peer d :: .peer m :: (ws.map .peer ++ .peer r :: es)) :
    ∃ u, receive 1 s = endTransfer u ∧ u.env = es ∧ u.buf = Memory.write s.buf 0 d.data := by
  apply Exists.intro
  constructor
  · refine act_bind_peer henv ?_
    rw [recvFrom]
    refine act_bind_peer rfl <| sampleData_bind_peer rfl hd <| act_bind_peer rfl ?_
    dsimp only [State.writeGuard, drqLow, drqHigh, State.record, storeByte]
    exact spinUntil_bind_past rfl (fun w hw => holds_ack.2.2 (hws w hw)) (holds_ack.1.2 hr) rfl
  · exact ⟨rfl, rfl⟩

/-- Settles O40: the sample takes the third move, after the guard and the pulse. -/
theorem receiveSamplesBeforeTheAcknowledge : Obligations.ReceiveSamplesBeforeTheAcknowledge := by
  intro s g q d m r ws es hd hws hr hes henv
  obtain ⟨u, hu, hend, hbuf⟩ := receive_one hd hws hr (by simpa using henv)
  obtain ⟨t, ht, htr⟩ := endTransfer_yields (tracks_self (s := u) (by rwa [NoReset, hend]))
  have htbuf : t.buf = Memory.write s.buf 0 d.data := (tracks_buf htr).trans hbuf
  refine ⟨t, hu.trans ht, ?_, fun k hk => ?_⟩ <;> rw [htbuf]
  · exact read_write_same s.buf 0 d.data
  · exact read_write_other s.buf 0 k d.data (by omega)

/-- The return from the status handshake takes four entries (R194). -/
theorem statusReturn_does :
    Does 4 statusReturn fun s =>
      State.after [.released .all, .guardSet false]
        { s with
          phase := .idle, guard := false, dOut := .released, drqOut := .released, irqOut := .released
          statusDone := true } :=
  does_bind act_does (releaseLines_op .all) <|
  does_bind act_does (writeGuard_op false) <|
  does_bind act_does (writeStatusDone_op true) act_does

/-- The engine at the wait of the status handshake (R190). -/
def statusDriven (code : Byte) (s : State) : State :=
  State.after [.ledSet false, .guardSet true, .droveData code, .assertedIrq]
    { s with
      phase := .sendingStatus (statusStart s.cfg), led := false, guard := true, dOut := .drive code
      irqOut := .asserted }

/-- The handshake before its wait. -/
def statusHead (code : Byte) (s : State) : Flow State :=
  (act (fun s => writePhase (.sendingStatus (statusStart s.cfg)) s) s).bind fun s =>
  (setLed false s).bind fun s =>
  (setGuard true s).bind fun s =>
  (driveData code s).bind assertIrq

theorem statusHead_does (code : Byte) : Does 5 (statusHead code) (statusDriven code) :=
  does_bind (f := fun s => writePhase (.sendingStatus (statusStart s.cfg)) s) act_does (fun _ _ _ => ⟨rfl, rfl⟩) <|
  does_bind act_does (writeLed_op false) <|
  does_bind act_does (writeGuard_op true) <|
  does_bind (f := fun s => State.record (.droveData code) { s with dOut := .drive code }) act_does
    (fun _ _ _ => ⟨rfl, rfl⟩) act_does

/-- The handshake is five atomic steps, the wait, and the return. -/
theorem sendStatus_eq (code : Byte) (s : State) :
    sendStatus code s = (statusHead code s).bind fun t => (statusWait t).bind statusReturn := by
  simp only [sendStatus, statusHead, bind_assoc]

/-- Settles O42: the five moves before the wait, those of its two halves, and the four of the return. -/
theorem statusHandshakeUnderEdge : Obligations.StatusHandshakeUnderEdge := by
  intro s code f w x y z a d ps qs rest hedge hps ha hqs hd hrest henv
  have henv : s.env = .peer f :: .peer w :: .peer x :: .peer y :: .peer z ::
      (ps.map .peer ++ .peer a :: (qs.map .peer ++ .peer d :: rest)) := by simp [henv]
  have hdriven := statusHead_does code s (by simp [henv])
  have hmoved : s.moved 5 =
      { s with pins := z, env := ps.map .peer ++ .peer a :: (qs.map .peer ++ .peer d :: rest) } := by
    simp [State.moved, pinsAt, henv, restPins]
  have hcfg : (statusDriven code (s.moved 5)).cfg.statusWait = .edge := hedge
  rw [sendStatus_eq, hdriven, bind_done, statusWait, hcfg]
  show ((statusWaitAsserted _).bind statusWaitDeasserted).bind statusReturn = _
  rw [bind_assoc]
  refine spinUntil_bind_past (by rw [hmoved]; rfl) (fun p hp => holds_csAsserted.2.2 (hps p hp))
    (holds_csAsserted.1.2 ha) ?_
  refine spinUntil_bind_past rfl (fun p hp => holds_csDeasserted.2.2 (hqs p hp)) (holds_csDeasserted.1.2 hd) ?_
  exact statusReturn_does _ hrest

/-- The engine in a wait that the peer's lines do not end is left in it. -/
theorem spinUntil_hung {w : WaitKind} {s : State} (he : s.env = []) (hw : w.holds s.pins = false) :
    spinUntil w s.phase s = .halt s := by
  have hs : { s with env := [] } = s := by rw [← he]
  rw [spinUntil, he, spinOver, hw, if_neg Bool.false_ne_true]
  exact congrArg Flow.halt hs

/-- Settles O52: each phase that waits samples once more and is left as it was. -/
theorem waitsHoldWhileTheLinesHold : Obligations.WaitsHoldWhileTheLinesHold := by
  intro s hok ⟨he, w, hw, hnot⟩ hlen
  have hung := spinUntil_hung he hnot
  cases hp : s.phase with
  | boot | idle | addressMatch | complete => simp [hp, Phase.wait] at hw
  | receivingBytes waiting =>
    rw [hp] at hw hung
    cases waiting with
    | false => simp [Phase.wait] at hw
    | true =>
      obtain rfl : WaitKind.csAsserted = w := Option.some.inj hw
      rw [step_receivingBytes hok hp, receiveByteStep, if_pos rfl, bind_done, hung]
      rfl
  | dispatching pos =>
    rw [hp] at hw hung
    cases pos with
    | start => simp [Phase.wait] at hw
    | sendAck i n next =>
      obtain rfl : WaitKind.ackAsserted = w := Option.some.inj hw
      rw [step_sendAck hok hp, resumeSend_eq next (hlen i n next hp), waitSendAck, hung]
      rfl
    | recvAck i =>
      obtain rfl : WaitKind.ackAsserted = w := Option.some.inj hw
      rw [step_recvAck hok hp, resumeReceive, waitRecvAck, hung]
      rfl
  | sendingStatus pos =>
    rw [hp] at hw hung
    cases pos with
    | asserted =>
      obtain rfl : WaitKind.csAsserted = w := Option.some.inj hw
      rw [step_sendingStatus hok hp, resumeStatus, statusWaitAsserted, hung]
      rfl
    | deasserted =>
      obtain rfl : WaitKind.csDeasserted = w := Option.some.inj hw
      rw [step_sendingStatus hok hp, resumeStatus, statusWaitDeasserted, hung]
      rfl

end Sys2Proof.Machine
end


section
/-! The iterations of reception (R161 to R167), and a whole frame. -/

namespace Sys2Proof.Machine

/-! ## `Idle` -/

/-- Settles O47: the service takes the first entry of the schedule, the sample the second. -/
theorem idlePollsForBothLines : Obligations.IdlePollsForBothLines := by
  intro s hok h hp
  have hservice : wdgService s = .done (State.record .wdgService (s.moved 1)) := act_does s (noReset_take h 1)
  have hsample : tick (State.record .wdgService (s.moved 1)) = .done (State.record .wdgService (s.moved 2))  :=
    (tick_moved (s := State.record .wdgService (s.moved 1)) (noReset_take (noReset_moved h 1) 1)).trans
      (by rw [engineOp_moved (record_op .wdgService), moved_moved])
  have hn : NoReset (State.after [.wdgService, .sampledLines (pinsAt 2 s).cs (pinsAt 2 s).a1] (s.moved 2)) :=
    noReset_moved h 2
  rw [step_idle hok hp, idleStep, hservice, bind_done, sampleLines, hsample]
  show ∃ t, Flow.next (if (pinsAt 2 s).cs = .asserted ∧ (pinsAt 2 s).a1 = .asserted then _ else _) = .next t ∧ _
  split
  · obtain ⟨t, ht, he, _⟩ := next_of_yields (act_yields (writePhase_op .addressMatch) (tracks_self hn))
    exact ⟨t, ht, he⟩
  · exact ⟨_, rfl, rfl⟩

/-! ## `AddressMatch` -/

/-- The frame register of byte 0 keeps the low five bits (D13). -/
theorem storedOpcode_eq_and (raw : Byte) : storedOpcode raw = raw &&& 0x1F := by
  apply BitVec.eq_of_toNat_eq
  have hmod : raw.toNat % 32 < 256 := by omega
  simp [storedOpcode, opcField, Nat.and_two_pow_sub_one_eq_mod raw.toNat 5, Nat.mod_eq_of_lt hmod]

/-- The engine when byte 0 of a frame has been taken (R163). -/
def frameBegun (raw : Byte) (s : State) : State :=
  State.after [.guardSet true, .ledSet true]
    { s with
      cf := { s.cf with b0 := storedOpcode raw }, guard := true, led := true, bi := 1
      phase := .receivingBytes false }

/-- Taking byte 0 is five writes. -/
theorem frameBegun_does (raw : Byte) :
    Does 5 (fun s =>
      (act (writeFrame 0 (storedOpcode raw)) s).bind fun s =>
      (act (writePhase (.receivingBytes false)) s).bind fun s =>
      (setGuard true s).bind fun s =>
      (setLed true s).bind (act (writeBi 1))) (frameBegun raw) :=
  does_bind (f := writeFrame 0 (storedOpcode raw)) act_does (fun _ _ _ => ⟨rfl, rfl⟩) <|
  does_bind act_does (writePhase_op (.receivingBytes false)) <|
  does_bind act_does (writeGuard_op true) <|
  does_bind act_does (writeLed_op true) act_does

/-- Settles O48: the sample takes the first entry of the schedule; the ID of the byte decides what is written. -/
theorem addressMatchFiltersTheId : Obligations.AddressMatchFiltersTheId := by
  intro s hok h hp hd
  have hn : NoReset (State.record (.sampledData (pinsAt 1 s).data) (s.moved 1)) := noReset_moved h 1
  have htracks := tracks_self hn
  rw [step_addressMatch hok hp, addressMatchStep, sampleData, tick_moved (noReset_take h 1), bind_done,
    dataLines_released (by exact hd)]
  show ∃ t, Flow.next (if idField (pinsAt 1 s).data = s.cfg.deviceId then _ else _) = .next t ∧ _
  simp only [← idField_eq_iff, ← storedOpcode_eq_and]
  split
  · refine ⟨_, congrArg Flow.next (frameBegun_does _ _ (noReset_take hn 5)), ?_⟩
    simp only [State.engine, frameBegun, State.after, State.moved, State.record]
    rfl
  · obtain ⟨t, ht, he, _⟩ := next_of_yields (act_yields (writePhase_op .idle) htracks)
    exact ⟨t, ht, he⟩

/-! ## `ReceivingBytes` -/

/-- The engine when frame byte `BI` has been captured from the lines `d`, with the moves up to `g` over. -/
def byteCaptured (d g : Pins) (es : List EnvEvent) (s : State) : State :=
  State.after [.waited .csAsserted, .released .irqOnly, .sampledData d.data]
    { s with
      pins := g, env := es, irqOut := .released, cf := s.cf.set s.bi d.data
      bi := if s.bi = 5 then 5 else s.bi + 1
      phase := if s.bi = 5 then .complete else .receivingBytes false }

theorem nextByte_peer {s : State} {g : Pins} {es : List EnvEvent} (h : s.env = .peer g :: es) :
    nextByte s = .done
      { s with
        pins := g, env := es, bi := if s.bi = 5 then 5 else s.bi + 1
        phase := if s.bi = 5 then .complete else .receivingBytes false } := by
  unfold nextByte
  split
  · next hbi => rw [act_peer h, writePhase, ← hbi]
  · rw [act_peer h, writePhase, writeBi]

/-- An iteration from the strobe wait on. -/
theorem receiveByteStep_waiting {s : State} {p r d f g : Pins} {ws : List Pins} {es : List EnvEvent}
    (hd : s.dOut = .released) (hws : ∀ w ∈ ws, w.cs = .deasserted) (hp : p.cs = .asserted)
    (henv : s.env = ws.map .peer ++ .peer p :: .peer r :: .peer d :: .peer f :: .peer g :: es) :
    receiveByteStep true s = .done (byteCaptured d g es s) := by
  rw [receiveByteStep, if_pos rfl, bind_done]
  refine spinUntil_bind_past henv (fun w hw => holds_csAsserted.2.2 (hws w hw)) (holds_csAsserted.1.2 hp) ?_
  refine act_bind_peer rfl <| sampleData_bind_peer rfl hd <| act_bind_peer rfl ?_
  dsimp only [releaseLines, State.record, writeFrame]
  exact nextByte_peer rfl

/-- The engine with IRQ asserted for a byte. -/
def irqAsserted (q : Pins) (es : List EnvEvent) (s : State) : State :=
  State.record .assertedIrq { s with pins := q, env := es, irqOut := .asserted }

/-- An iteration from its start asserts IRQ and comes to the wait. -/
theorem receiveByteStep_start {s : State} {q : Pins} {es : List EnvEvent} (h : s.env = .peer q :: es) :
    receiveByteStep false s = receiveByteStep true (irqAsserted q es s) :=
  act_bind_peer h rfl

/-- Settles O49: from the start of the iteration IRQ is asserted first, and then it is the iteration from the wait. -/
theorem receivingBytesCapturesAfterTheStrobe : Obligations.ReceivingBytesCapturesAfterTheStrobe := by
  intro s waiting q p r d f g ws es hok hphase hd hws hp henv
  rw [step_receivingBytes hok hphase]
  cases waiting with
  | true =>
    rw [receiveByteStep_waiting hd hws hp (by simpa using henv)]
    rfl
  | false =>
    have hrest : s.env = .peer q :: (ws.map .peer ++ .peer p :: .peer r :: .peer d :: .peer f :: .peer g :: es) := by
      simpa using henv
    rw [receiveByteStep_start hrest, receiveByteStep_waiting (s := irqAsserted q _ s) hd hws hp rfl]
    rfl

/-! ## A frame -/

theorem run_succ {s t : State} (h : step s = .next t) (n : Nat) :
    Host.Core.run Sys2Proof.core (n + 1) s = Host.Core.run Sys2Proof.core n t := by
  have hcore : Sys2Proof.core.step s = .next t := h
  simp only [Host.Core.run, hcore]

/-- An iteration of `AddressMatch` that finds this device's ID on lines that are held. -/
theorem addressMatchStep_peer {s : State} {p : Pins} {es : List EnvEvent} (hd : s.dOut = .released)
    (hid : idField p.data = s.cfg.deviceId) (henv : s.env = List.replicate 6 (.peer p) ++ es) :
    addressMatchStep s = .done
      (State.after [.sampledData p.data, .guardSet true, .ledSet true]
        { s with
          pins := p, env := es, cf := { s.cf with b0 := storedOpcode p.data }, guard := true, led := true, bi := 1
          phase := .receivingBytes false }) := by
  refine sampleData_bind_peer henv hd ?_
  show (if idField p.data = s.cfg.deviceId then _ else _) = _
  rw [if_pos hid]
  refine (frameBegun_does p.data _ (by simp [State.record])).trans ?_
  simp [State.moved, pinsAt, restPins, State.record, frameBegun, State.after]

/-- A step that receives a byte from lines that are held. -/
theorem step_receives {s : State} {q : Pins} {es : List EnvEvent} (hok : s.cfg.ok = true)
    (hp : s.phase = .receivingBytes false) (hd : s.dOut = .released) (hq : q.cs = .asserted)
    (henv : s.env = List.replicate 6 (.peer q) ++ es) :
    step s = .next (byteCaptured q q es (irqAsserted q (List.replicate 5 (.peer q) ++ es) s)) := by
  have hstart := receiveByteStep_start (es := List.replicate 5 (.peer q) ++ es) henv
  have hwaiting := receiveByteStep_waiting (s := irqAsserted q (List.replicate 5 (.peer q) ++ es) s) (ws := []) hd
    (by simp) hq rfl
  rw [step_receivingBytes hok hp, hstart, hwaiting]
  rfl

/-- `t` is `s` in the reception of a frame, its registers holding `f`, at byte `k` or, `k` being none, in `Complete`,
with the schedule `es`. -/
structure Receiving (s : State) (f : Frame) (k : Option (Fin 6)) (es : List EnvEvent) (t : State) : Prop where
  phase : t.phase = if k.isSome then .receivingBytes false else .complete
  bi : ∀ i, k = some i → t.bi = i
  cf : t.cf = f
  env : t.env = es
  led : t.led = true
  lines : t.dOut = .released ∧ (k = none → t.irqOut = .released)
  cfg : t.cfg = s.cfg
  device : t.dsReady = s.dsReady ∧ t.dsCapacity = s.dsCapacity ∧ t.buf = s.buf ∧ t.replies = s.replies

/-- A byte in the reception of a frame. -/
theorem Receiving.byte {s t : State} {f : Frame} {i : Fin 6} {q : Pins} {es : List EnvEvent}
    (h : Receiving s f (some i) (List.replicate 6 (.peer q) ++ es) t) (hok : s.cfg.ok = true) (hq : q.cs = .asserted) :
    ∃ u, step t = .next u ∧ Receiving s (f.set i q.data) (if i = 5 then none else some (i + 1)) es u := by
  have hbi := h.bi i rfl
  refine ⟨_, step_receives (h.cfg ▸ hok) h.phase h.lines.1 hq h.env, ?_⟩
  refine { phase := ?_, bi := fun j hj => ?_, cf := ?_, env := rfl, led := h.led, lines := ⟨h.lines.1, fun _ => rfl⟩
           cfg := h.cfg, device := h.device }
  · show (if t.bi = 5 then Phase.complete else .receivingBytes false) = _
    rw [hbi]
    split <;> rfl
  · show (if t.bi = 5 then 5 else t.bi + 1) = j
    rw [hbi]
    split at hj
    · cases hj
    · next hi => exact (if_neg hi).trans (Option.some.inj hj)
  · show t.cf.set t.bi q.data = _
    rw [hbi, h.cf]

/-- Byte 0 begins the reception of a frame. -/
theorem step_begins {s : State} {p : Pins} {es : List EnvEvent} (hok : s.cfg.ok = true) (hp : s.phase = .addressMatch)
    (hd : s.dOut = .released) (hid : p.data.toNat / 32 = s.cfg.deviceId.toNat)
    (henv : s.env = List.replicate 6 (.peer p) ++ es) :
    ∃ u, step s = .next u ∧ Receiving s { s.cf with b0 := p.data &&& 0x1F } (some 1) es u := by
  have hmatch := addressMatchStep_peer hd ((idField_eq_iff p.data s.cfg.deviceId).2 hid) henv
  refine ⟨_, (step_addressMatch hok hp).trans (congrArg Flow.next hmatch), ?_⟩
  rw [← storedOpcode_eq_and]
  exact ⟨rfl, fun _ hi => Option.some.inj hi, rfl, rfl, rfl, ⟨hd, nofun⟩, rfl, rfl, rfl, rfl, rfl⟩

/-- Settles O51: a step for byte 0, one for each of the five others, and `Complete`. -/
theorem receptionAssemblesTheFrame : Obligations.ReceptionAssemblesTheFrame := by
  intro s p b es hok hp hd hid hb henv hes
  obtain ⟨⟨l⟩, hl⟩ := b
  obtain ⟨b1, b2, b3, b4, b5, rfl⟩ : ∃ b1 b2 b3 b4 b5, l = [b1, b2, b3, b4, b5] := by
    match l, hl with
    | [b1, b2, b3, b4, b5], _ => exact ⟨b1, b2, b3, b4, b5, rfl⟩
  simp only [Vector.toList_mk, List.forall_mem_cons] at hb
  obtain ⟨hb1, hb2, hb3, hb4, hb5, _⟩ := hb
  obtain ⟨t0, e0, h0⟩ := step_begins (es := List.replicate 6 (.peer b1) ++ (List.replicate 6 (.peer b2) ++
    (List.replicate 6 (.peer b3) ++ (List.replicate 6 (.peer b4) ++ (List.replicate 6 (.peer b5) ++ es)))))
    hok hp hd hid (by simp [henv])
  obtain ⟨t1, e1, h1⟩ := h0.byte hok hb1
  obtain ⟨t2, e2, h2⟩ := h1.byte hok hb2
  obtain ⟨t3, e3, h3⟩ := h2.byte hok hb3
  obtain ⟨t4, e4, h4⟩ := h3.byte hok hb4
  obtain ⟨t5, e5, h5⟩ := h4.byte hok hb5
  have hn : NoReset t5 := by rwa [NoReset, h5.env]
  obtain ⟨t, ht, he, _⟩ := next_of_yields (completeStep_yields (tracks_self hn))
  have e6 := (step_complete (h5.cfg ▸ hok) h5.phase).trans ht
  obtain ⟨hready, hcap, hbuf, hreplies⟩ := h5.device
  refine ⟨t, ?_, (congrArg State.phase he :), Eq.trans (congrArg State.cf he :) h5.cf,
    Eq.trans (congrArg State.led he :) h5.led, (congrArg State.guard he :),
    Eq.trans (congrArg State.dOut he :) h5.lines.1, Eq.trans (congrArg State.irqOut he :) (h5.lines.2 rfl),
    (congrArg State.statusDone he :), Eq.trans (congrArg State.dsReady he :) hready,
    Eq.trans (congrArg State.dsCapacity he :) hcap, Eq.trans (congrArg State.buf he :) hbuf,
    Eq.trans (congrArg State.replies he :) hreplies⟩
  exact (run_succ e0 6).trans <| (run_succ e1 5).trans <| (run_succ e2 4).trans <| (run_succ e3 3).trans <|
    (run_succ e4 2).trans <| (run_succ e5 1).trans <| run_succ e6 0

end Sys2Proof.Machine
end

section
/-! What each class of commands leaves unchanged, whatever the peer does and wherever the command is left (R232 to R267,
R291, R292): steps on the bus change nothing that these statements name, so only what a command does beside them is
looked at. -/

namespace Sys2Proof.Machine

/-! ## The commands without a block transfer -/

/-- The parameters, the frame registers and the registers of the loops are as they were, every buffer byte from `n` on
is, and a device that was ready and is not any more has its capacity still. -/
structure KeptFrom (n : Nat) (s t : State) : Prop where
  cfg : t.cfg = s.cfg
  cf : t.cf = s.cf
  bi : t.bi = s.bi
  blk : t.blk = s.blk
  cnt : t.cnt = s.cnt
  rem : t.rem = s.rem
  buf : ∀ k, n ≤ k → Memory.read t.buf k = Memory.read s.buf k
  capacity : s.dsReady = true → t.dsReady = false → t.dsCapacity = s.dsCapacity

/-- DeviceState and the collaborator's answers are as they were. -/
abbrev DeviceKept (s t : State) : Prop :=
  t.dsReady = s.dsReady ∧ t.dsCapacity = s.dsCapacity ∧ t.replies = s.replies ∧ t.draws = s.draws

variable {s t u : State} {n : Nat} {f : Flow State}

theorem deviceKept_bus (h : DeviceKept s t) (k : BusStep t u) : DeviceKept s u := by
  rw [DeviceKept, k.1]
  exact h

theorem keptFrom_bus (h : KeptFrom n s t) (k : BusStep t u) : KeptFrom n s u := by
  rw [k.1]
  exact ⟨h.cfg, h.cf, h.bi, h.blk, h.cnt, h.rem, h.buf, h.capacity⟩

theorem keptFrom_refl (n : Nat) (s : State) : KeptFrom n s s :=
  ⟨rfl, rfl, rfl, rfl, rfl, rfl, fun _ _ => rfl, fun _ _ => rfl⟩

theorem deviceKept_refl (s : State) : DeviceKept s s := ⟨rfl, rfl, rfl, rfl⟩

/-- What holds after any steps on the bus holds however a sequence of such steps ends. -/
theorem sat_of_bus {R P : State → Prop} (h : OnBus s R f) (hP : ∀ t, BusStep s t → P t) : f.Sat P P :=
  sat_mono h (fun _ k => hP _ k.1) fun _ k => hP _ k.1

/-- A command leaves what its sequence leaves however it ends. -/
theorem sat_of_exec {i : Instr} {P : State → Prop} (hi : exec i s = f.next) (ht : exec i s = .next t)
    (h : f.Sat P P) : P t :=
  Host.Outcome.next.inj (hi.symm.trans ht) ▸ sat_state h

/-- The initialization of a device (R206). -/
theorem initDevice_kept (h : NoReset s) (n : Nat) :
    ∃ ok u, initDevice s = .done (ok, u) ∧ NoReset u ∧ KeptFrom n s u := by
  obtain ⟨u, hu, hn, hcfg, hcf, hbi, hblk, hcnt, hrem, hbuf, hready, hcap, _⟩ := initDevice_quiet h
  refine ⟨_, u, hu, hn, hcfg, hcf, hbi, hblk, hcnt, hrem, fun _ _ => by rw [hbuf], fun _ hr => hcap ?_⟩
  exact hready.symm.trans hr

/-- A command with its prologue keeps what its body keeps: only a device that is not ready is initialized first. -/
theorem prologue_kept {body : State → Flow State}
    (hb : ∀ u, NoReset u → (body u).Sat (KeptFrom n u) (KeptFrom n u)) (h : NoReset s) :
    (prologue body s).Sat (KeptFrom n s) (KeptFrom n s) := by
  unfold prologue
  split
  · exact hb s h
  · next hr =>
    obtain ⟨ok, u, hu, hn, k⟩ := initDevice_kept h n
    have hafter : ∀ t, KeptFrom n u t → KeptFrom n s t := fun t k' =>
      ⟨k'.cfg.trans k.cfg, k'.cf.trans k.cf, k'.bi.trans k.bi, k'.blk.trans k.blk, k'.cnt.trans k.cnt,
        k'.rem.trans k.rem, fun j hj => (k'.buf j hj).trans (k.buf j hj), fun hs => absurd hs hr⟩
    rw [hu, bind_done]
    cases ok
    · exact sat_of_bus (raiseError_bus .notReady hn) fun t hb => keptFrom_bus k hb
    · exact sat_mono (hb u hn) hafter hafter

/-- On a device that is ready a command is its body (R231). -/
theorem exec_ready {i : Instr} {body : State → Flow State} (hi : exec i s = (prologue body s).next)
    (hr : s.dsReady = true) : exec i s = (body s).next := by
  rw [hi, prologue, if_pos hr]

theorem forceInit_kept (h : NoReset s) : (forceInit s).Sat (KeptFrom n s) (KeptFrom n s) := by
  obtain ⟨ok, u, hu, hn, k⟩ := initDevice_kept h n
  rw [forceInit, hu, bind_done]
  cases ok
  · exact sat_of_bus (raiseError_bus _ hn) fun t hb => keptFrom_bus k hb
  · exact sat_of_bus (sendSuccess_bus hn) fun t hb => keptFrom_bus k hb

/-- The class of `Initialize` keeps what only a capacity can lose (R236). -/
theorem initializeClass_kept {i : Instr} (hi : exec i s = (prologue forceInit s).next) (h : NoReset s)
    (ht : exec i s = .next t) : KeptFrom 0 s t :=
  sat_of_exec hi ht (prologue_kept (fun _ hn => forceInit_kept hn) h)

/-- A command whose body is its status keeps DeviceState too, on a device that is ready (R232, R240). -/
theorem statusOnly_kept {i : Instr} {body : State → Flow State} (hi : exec i s = (prologue body s).next)
    (hb : ∀ u, NoReset u → OnBus u (fun t => t.phase = .idle) (body u)) (h : NoReset s) (ht : exec i s = .next t) :
    KeptFrom 0 s t ∧ (s.dsReady = true → DeviceKept s t) := by
  refine ⟨sat_of_exec hi ht (prologue_kept (fun u hn => ?_) h), fun hr => sat_of_exec (exec_ready hi hr) ht ?_⟩
  · exact sat_of_bus (hb u hn) fun t => keptFrom_bus (keptFrom_refl 0 u)
  · exact sat_of_bus (hb s h) fun t => deviceKept_bus (deviceKept_refl s)

/-- Settles O33: the class that only sends a status, and the class of `Initialize`. -/
theorem frameOfCommandsWithoutData : Obligations.FrameOfCommandsWithoutData := by
  intro s t i h ht ⟨a, o, hi⟩
  have hkept : KeptFrom 0 s t ∧
      ((∃ a o, i ∈ [.seek a, .correction a, .modeSelect a, .ship a, .unsupported o a]) → s.dsReady = true →
        DeviceKept s t) := by
    simp only [List.mem_cons, List.not_mem_nil, or_false] at hi
    rcases hi with rfl | rfl | rfl | rfl | rfl | rfl | rfl | rfl | rfl
    case inl | inr.inl | inr.inr.inl | inr.inr.inr.inl =>
      exact (statusOnly_kept rfl (fun _ => sendSuccess_bus) h ht).imp_right fun k _ => k
    case inr.inr.inr.inr.inl =>
      exact (statusOnly_kept rfl (fun _ => raiseError_bus .unsupportedCommand) h ht).imp_right fun k _ => k
    all_goals exact ⟨initializeClass_kept rfl h ht, fun ⟨_, _, hm⟩ => by simp at hm⟩
  obtain ⟨k, hdevice⟩ := hkept
  exact ⟨k.cfg, k.cf, k.bi, k.blk, k.cnt, k.rem, fun j => k.buf j (Nat.zero_le j), k.capacity,
    fun hm hr => (hdevice hm hr).imp_left fun k => k.trans hr⟩

/-! ## The responses -/

/-- Sending the buffer and the status takes steps on the bus only. -/
theorem sendResponse_bus (n : Nat) (h : NoReset s) : OnBus s (fun t => t.phase = .idle) (sendResponse n s) :=
  onBus_bind (send_bus n .status h) fun _ hn _ => sendSuccess_bus hn

/-- Sending what has been put into the buffer below `n`. -/
theorem sendResponse_kept (k : Nat) {m : Memory} {p : Pins} {e : List EnvEvent} (he : EnvEvent.watchdog ∉ e)
    (hm : ∀ k, n ≤ k → Memory.read m k = Memory.read s.buf k) :
    (sendResponse k { s with buf := m, pins := p, env := e }).Sat (fun t => KeptFrom n s t ∧ DeviceKept s t)
      fun t => KeptFrom n s t ∧ DeviceKept s t := by
  have hstored : KeptFrom n s { s with buf := m, pins := p, env := e } :=
    ⟨rfl, rfl, rfl, rfl, rfl, rfl, hm, fun _ _ => rfl⟩
  have hdevice : DeviceKept s { s with buf := m, pins := p, env := e } := ⟨rfl, rfl, rfl, rfl⟩
  exact sat_of_bus (sendResponse_bus k he) fun t hb =>
    ⟨keptFrom_bus hstored hb, deviceKept_bus hdevice hb⟩

/-- A response put into the buffer at once (R260, R265, R266). -/
theorem respond_kept (l : List Byte) (n : Nat) {m : Nat} (hm : l.length ≤ m) (h : NoReset s) :
    (respond l n s).Sat (fun t => KeptFrom m s t ∧ DeviceKept s t) fun t => KeptFrom m s t ∧ DeviceKept s t := by
  obtain ⟨p, e, hw, hn⟩ := act_quiet (f := memWrite l) h
  rw [respond, hw, bind_done]
  exact sendResponse_kept n hn fun k hk => read_writeBytes_beyond s.buf k l (hm.trans hk)

/-- A response put into the buffer byte by byte (R262). -/
theorem inquiry_kept (n : Nat) (h : NoReset s) :
    (inquiry n s).Sat (fun t => KeptFrom n s t ∧ DeviceKept s t) fun t => KeptFrom n s t ∧ DeviceKept s t := by
  obtain ⟨u, hu, he, hn, _⟩ := storeBytes_yields (inquiryResponse s.cfg n) 0 (tracks_self h)
  rw [inquiry, hu, bind_done, eq_of_engine he]
  exact sendResponse_kept n hn fun k hk => read_writeBytes_beyond s.buf k _ (by rwa [length_inquiryResponse])

/-- A response without an initialization keeps DeviceState too, on a device that is ready. -/
theorem response_kept {i : Instr} {body : State → Flow State} (hi : exec i s = (prologue body s).next)
    (hb : ∀ u, NoReset u →
      (body u).Sat (fun t => KeptFrom n u t ∧ DeviceKept u t) fun t => KeptFrom n u t ∧ DeviceKept u t)
    (h : NoReset s) (ht : exec i s = .next t) : KeptFrom n s t ∧ (s.dsReady = true → DeviceKept s t) := by
  refine ⟨sat_of_exec hi ht (prologue_kept (fun u hn => ?_) h), fun hr => sat_of_exec (exec_ready hi hr) ht ?_⟩
  · exact sat_mono (hb u hn) (fun _ k => k.1) fun _ k => k.1
  · exact sat_mono (hb s h) (fun _ k => k.2) fun _ k => k.2

/-- Request-Sense initializes the device first, whether or not it is ready (R260). -/
theorem requestSense_kept (n : Nat) (h : NoReset s) :
    (requestSense n s).Sat (KeptFrom (max n 4) s) (KeptFrom (max n 4) s) := by
  obtain ⟨ok, u, hu, hn, k⟩ := initDevice_kept h (max n 4)
  have hlen : (senseResponse u.dsCapacity (senseLength n)).length ≤ max n 4 :=
    (length_senseResponse u.dsCapacity (Nat.le_max_right n 4)).le
  have hafter : ∀ t, KeptFrom (max n 4) u t ∧ DeviceKept u t → KeptFrom (max n 4) s t := fun t ⟨k', hready, hcap, _⟩ =>
    ⟨k'.cfg.trans k.cfg, k'.cf.trans k.cf, k'.bi.trans k.bi, k'.blk.trans k.blk, k'.cnt.trans k.cnt,
      k'.rem.trans k.rem, fun j hj => (k'.buf j hj).trans (k.buf j hj),
      fun hs ht => hcap.trans (k.capacity hs (hready.symm.trans ht))⟩
  rw [requestSense, hu, bind_done]
  exact sat_mono (respond_kept _ n hlen hn) hafter hafter

/-- Settles O34: each response is as long as its command says, and only Request-Sense touches DeviceState. -/
theorem frameOfResponses : Obligations.FrameOfResponses := by
  intro s t i a h ht hi
  simp only [List.mem_cons, List.not_mem_nil, or_false] at hi
  have hkept : ∃ n, KeptFrom n s t ∧ (i ≠ .requestSense a → s.dsReady = true → DeviceKept s t) ∧
      ∀ k, (i = .requestSense a → max a.len.toNat 4 ≤ k) → (i = .inquiry a → a.len.toNat ≤ k) →
        (i = .modeSense0 a → 16 ≤ k) → (i = .modeSense4 a → 24 ≤ k) → n ≤ k := by
    rcases hi with rfl | rfl | rfl | rfl
    · refine ⟨max a.len.toNat 4, sat_of_exec rfl ht ?_, fun hne => absurd rfl hne, fun _ hk _ _ _ => hk rfl⟩
      exact prologue_kept (fun _ hn => requestSense_kept (countOperand a) hn) h
    · obtain ⟨k, hdevice⟩ := response_kept rfl (fun _ hn => inquiry_kept (countOperand a) hn) h ht
      exact ⟨_, k, fun _ => hdevice, fun _ _ hk _ _ => hk rfl⟩
    · obtain ⟨k, hdevice⟩ := response_kept rfl
        (fun u hn => respond_kept _ ms0Len (length_modePage0 u.cfg u.dsCapacity).le hn) h ht
      exact ⟨_, k, fun _ => hdevice, fun _ _ _ hk _ => hk rfl⟩
    · obtain ⟨k, hdevice⟩ := response_kept rfl
        (fun u hn => respond_kept _ ms4Len (length_modePage4 u.cfg u.dsCapacity).le hn) h ht
      exact ⟨_, k, fun _ => hdevice, fun _ _ _ _ hk => hk rfl⟩
  obtain ⟨n, k, hdevice, hn⟩ := hkept
  exact ⟨k.cfg, k.cf, k.bi, k.blk, k.cnt, k.rem, fun j h1 h2 h3 h4 => k.buf j (hn j h1 h2 h3 h4), k.capacity,
    fun hne hr => (hdevice hne hr).imp_left fun k => k.trans hr⟩

/-! ## The block commands -/

/-- A block command out of range is its error status. -/
theorem blockCommand_out_of_range (loop : Nat → Nat → State → Flow State) {a : Args}
    (hr : s.dsCapacity.toNat < a.lba.toNat + a.len.toNat) : blockCommand loop a s = raiseError .range s :=
  if_neg fun h => absurd (of_decide_eq_true h) (Nat.not_le.2 hr)

/-- A block command with its prologue touches nothing but what its loop touches. -/
theorem prologue_blockCommand_frame {loop : Nat → Nat → State → Flow State}
    (hl : ∀ n b u, NoReset u → OnBlock u (fun t => t.phase = .idle) (loop n b u)) (a : Args) (h : NoReset s) :
    OnBlock s (fun t => t.phase = .idle) (prologue (blockCommand loop a) s) := by
  have hbody : ∀ u, NoReset u → OnBlock u (fun t => t.phase = .idle) (blockCommand loop a u) := fun u hn => by
    unfold blockCommand
    split
    · exact writeCnt_then _ (fun v hv => hl _ _ v hv) hn
    · exact onBlock_of_bus (raiseError_bus .range hn)
  unfold prologue
  split
  · exact hbody s h
  · obtain ⟨ok, u, hu, k⟩ := initDevice_block h
    rw [hu, bind_done]
    obtain ⟨_, _, _, _, hn⟩ := id k
    cases ok
    · exact onBlock_after k (onBlock_of_bus (raiseError_bus .notReady hn))
    · exact onBlock_after k (hbody u hn)

/-- The frame of a block command, from that of its loop. -/
theorem blockCommand_kept {i : Instr} {a : Args} {loop : Nat → Nat → State → Flow State}
    (hi : exec i s = (prologue (blockCommand loop a) s).next)
    (hl : ∀ n b u, NoReset u → OnBlock u (fun t => t.phase = .idle) (loop n b u)) (h : NoReset s)
    (ht : exec i s = .next t) :
    BlockStep s t ∧ (s.dsReady = true → s.dsCapacity.toNat < a.lba.toNat + a.len.toNat → BusStep s t) := by
  constructor
  · exact sat_of_exec hi ht (sat_mono (prologue_blockCommand_frame hl a h) (fun _ k => k.1) fun _ k => k.1)
  · intro hr hrange
    refine sat_of_exec (exec_ready hi hr) ht ?_
    rw [blockCommand_out_of_range loop hrange]
    exact sat_of_bus (raiseError_bus .range h) fun _ k => k

/-- Settles O35: the loops touch the block, and a range error is only its status. -/
theorem frameOfBlockCommands : Obligations.FrameOfBlockCommands := by
  intro s t i a h ht hi
  have hkept : BlockStep s t ∧
      (s.dsReady = true → s.dsCapacity.toNat < a.lba.toNat + a.len.toNat → BusStep s t) := by
    simp only [List.mem_cons, List.not_mem_nil, or_false] at hi
    rcases hi with rfl | rfl
    · exact blockCommand_kept rfl (fun n b _ hn => readLoop_block_frame n b hn) h ht
    · exact blockCommand_kept rfl (fun n b _ hn => writeLoop_block_frame n b hn) h ht
  obtain ⟨⟨hcfg, hcf, hbi, hbuf, _⟩, hrange⟩ := hkept
  refine ⟨hcfg, hcf, hbi, hbuf, fun hr hout => ?_⟩
  have hbus := hrange hr hout
  rw [hbus.1]
  exact ⟨rfl, rfl, rfl, hr, rfl, rfl, rfl, fun _ => rfl⟩

end Sys2Proof.Machine
end

section
/-! Every command as a tree of atomic steps, choices and acknowledge waits that ends in a status. What holds of each
command whatever its length, where it is left and how it goes on, is then shown once, by induction on this tree. -/

namespace Sys2Proof.Machine

/-! ## Waits by their outcome -/

/-- The state with the peer's lines and schedule replaced. -/
def State.met (q : Pins) (e : List EnvEvent) (s : State) : State := { s with pins := q, env := e }

/-- The state with the schedule replaced. -/
def State.scheduled (e : List EnvEvent) (s : State) : State := { s with env := e }

/-- How a wait ends: at its level, with the peer holding another level, or by a reset. -/
inductive Spun where
  | ended (q : Pins) (e : List EnvEvent)
  | stuck (q : Pins)
  | reset (q : Pins) (e : List EnvEvent)

/-- The outcome of a wait, which the lines and the schedule decide. -/
def spun (w : WaitKind) (q : Pins) : List EnvEvent → Spun
  | []              => if w.holds q then .ended q [] else .stuck q
  | .peer r :: es   => if w.holds r then .ended r es else spun w r es
  | .watchdog :: es => .reset q es

/-- What a wait does to the state, by its outcome. -/
def Spun.flow (w : WaitKind) (ph : Phase) (s : State) : Spun → Flow State
  | .ended q e => .done (State.record (.waited w) (s.met q e))
  | .stuck q   => .halt (writePhase ph (s.met q []))
  | .reset q e => .halt (watchdogReset (s.met q e))

theorem spinUntil_eq (w : WaitKind) (ph : Phase) (s : State) :
    spinUntil w ph s = (spun w s.pins s.env).flow w ph s := by
  have hover : ∀ es (s : State), spinOver w ph s es = (spun w s.pins es).flow w ph s := by
    intro es
    induction es with
    | nil =>
      intro s
      unfold spinOver spun
      split <;> rfl
    | cons e es ih =>
      intro s
      cases e with
      | peer q =>
        unfold spinOver spun
        split
        · rfl
        · exact ih { s with pins := q }
      | watchdog => rfl
  exact hover s.env s

/-! ## Changes of the state by one atomic step -/

/-- A value that depends on nothing of the schedule, the phase and the form of the status wait. -/
structure Blind {ι : Type} (p : State → ι) : Prop where
  env : ∀ s e, p (s.scheduled e) = p s := by exact fun _ _ => rfl
  phase : ∀ s ph, p (writePhase ph s) = p s := by exact fun _ _ => rfl
  level : ∀ s, p s.underLevel = p s := by exact fun _ => rfl

/-- A change with no part in the schedule, that only adds to the record and takes answers of the collaborator. -/
structure Steady (f : State → State) : Prop where
  env : ∀ s e, f (s.scheduled e) = (f s).scheduled e := by exact fun _ _ => rfl
  cfg : ∀ s, (f s).cfg = s.cfg := by exact fun _ => rfl
  log : ∀ s, s.log <:+ (f s).log
  replies : ∀ s, (f s).replies <:+ s.replies := by exact fun _ => List.suffix_refl _

/-- A change inside a command: beside, it has no part in the phase and the form of the status wait, and it leaves the
peer's lines and the frame registers. -/
structure Inert (f : State → State) : Prop extends Steady f where
  phase : ∀ s ph, f (writePhase ph s) = writePhase ph (f s) := by exact fun _ _ => rfl
  level : ∀ s, f s.underLevel = (f s).underLevel := by exact fun _ => rfl
  pins : ∀ s, (f s).pins = s.pins := by exact fun _ => rfl
  frame : ∀ s, (f s).cf = s.cf ∧ (f s).bi = s.bi := by exact fun _ => ⟨rfl, rfl⟩

theorem record_inert (e : Event) : Inert (State.record e) := { log := fun _ => List.suffix_cons _ _ }
theorem writeGuard_inert (b : Bool) : Inert (State.writeGuard b) := { log := fun _ => List.suffix_cons _ _ }
theorem releaseLines_inert (l : LineSet) : Inert (releaseLines l) := { log := fun _ => List.suffix_cons _ _ }
theorem writeReady_inert (b : Bool) : Inert (State.writeReady b) := { log := fun _ => List.suffix_refl _ }
theorem writeCapacity_inert (n : Nat) : Inert (writeCapacity n) := { log := fun _ => List.suffix_refl _ }
theorem writeRem_inert (n : Nat) : Inert (writeRem n) := { log := fun _ => List.suffix_refl _ }
theorem writeBlk_inert (b : Nat) : Inert (writeBlk b) := { log := fun _ => List.suffix_refl _ }
theorem writeCnt_inert (n : Nat) : Inert (writeCnt n) := { log := fun _ => List.suffix_refl _ }
theorem memWrite_inert (l : List Byte) : Inert (memWrite l) := { log := fun _ => List.suffix_refl _ }
theorem storeByte_inert (i : Nat) (v : Byte) : Inert (storeByte i v) := { log := fun _ => List.suffix_refl _ }

/-- The changes by a drive of the data lines, a pulse and a delay. -/
def driven (v : Byte) (s : State) : State := State.record (.droveData v) { s with dOut := .drive v }
def pulsed (n : Nat) (s : State) : State := drqHigh (State.record (.pulsedDrq n) (drqLow s))
def delayed (s : State) : State := State.record (.delayed s.cfg.recoveryDelay) s

theorem driven_inert (v : Byte) : Inert (driven v) := { log := fun _ => List.suffix_cons _ _ }
theorem pulsed_inert (n : Nat) : Inert (pulsed n) := { log := fun _ => List.suffix_cons _ _ }
theorem delayed_inert : Inert delayed := { log := fun _ => List.suffix_cons _ _ }

/-- The byte on the data lines by their driver, and the free values drawn for it (R125, R32). -/
def lineByte : DataDrive → Byte → Nat → Byte
  | .released, v, _ => v
  | .drive _, _, n  => Config.contendedData n

def drawsAfter : DataDrive → Nat → Nat
  | .released, n => n
  | .drive _, n  => n + 1

/-- The change by a sample of the data lines. -/
def sampled (s : State) : State :=
  State.record (.sampledData (lineByte s.dOut s.pins.data s.draws)) { s with draws := drawsAfter s.dOut s.draws }

theorem dataLines_eq (s : State) :
    dataLines s = (lineByte s.dOut s.pins.data s.draws, { s with draws := drawsAfter s.dOut s.draws }) := by
  cases hd : s.dOut <;> simp only [dataLines, hd, lineByte, drawsAfter]
  rw [← hd]

theorem sampled_inert : Inert sampled := { log := fun _ => List.suffix_cons _ _ }

theorem sampleData_bind {γ : Type} (k : Byte × State → Flow γ) (s : State) :
    (sampleData s).bind k = (tick s).bind fun s => k (lineByte s.dOut s.pins.data s.draws, sampled s) := by
  rw [sampleData, bind_assoc]
  simp only [dataLines_eq, bind_done, sampled]

theorem act_bind {γ : Type} (f : State → State) (k : State → Flow γ) (s : State) :
    (act f s).bind k = (tick s).bind fun s => k (f s) := by
  rw [act, bind_assoc]
  rfl

/-! ## Commands -/

/-- From `s` on, `c` is the rest of a command: a sequence that comes to its status by one of two codes. Its waits are
the acknowledge waits, with the guard held if `g`; left in one of them the engine goes on from it. -/
inductive Command (g : Prop) : (State → Flow State) → State → Prop
  | status {code : Byte} {s : State} (h : code = statusOk ∨ code = statusErr) : Command g (sendStatus code) s
  | step {ι : Type} {p : State → ι} {f : State → State} {k : ι → State → Flow State} {s : State} (hp : Blind p)
      (hf : Inert f) (next : ∀ q e, Command g (k (p (s.met q e))) (f (s.met q e))) :
      Command g (fun s => (tick s).bind fun s => k (p s) (f s)) s
  | raise {e : ErrorKind} {k : State → Flow State} {s : State} (next : Command g k (State.record (.raised e) s)) :
      Command g (fun s => k (State.record (.raised e) s)) s
  | choose {ι : Type} {p : State → ι} {k : ι → State → Flow State} {s : State} (hp : Blind p)
      (next : Command g (k (p s)) s) : Command g (fun s => k (p s) s) s
  | wait {pos : Pos} {k : State → Flow State} {s : State} (hg : g → s.guard = true)
      (hpos : (Phase.dispatching pos).wait = some .ackAsserted)
      (resume : ∀ q e, s.cfg.ok = true →
        step (writePhase (.dispatching pos) (s.met q e)) =
          ((spinUntil .ackAsserted (.dispatching pos) (writePhase (.dispatching pos) (s.met q e))).bind k).next)
      (next : ∀ q e, Command g k (State.record (.waited .ackAsserted) (s.met q e))) :
      Command g (fun s => (spinUntil .ackAsserted (.dispatching pos) s).bind k) s

/-! ## The parts of a command, each with what follows it -/

variable {g : Prop} {α : Type}

/-- The registers of the loops that a transfer and a block access keep. -/
abbrev SameCounters (s t : State) : Prop := t.cnt = s.cnt ∧ t.blk = s.blk

/-- A part with a result, whatever follows it. -/
def Leads (g : Prop) (c : State → Flow (α × State)) : Prop :=
  ∀ (k : α × State → Flow State) (s : State),
    (∀ a t, SameCounters s t → Command g (fun t => k (a, t)) t) → Command g (fun s => (c s).bind k) s

theorem Command.congr {c d : State → Flow State} {s : State} (h : Command g d s) (hcd : ∀ s, c s = d s) :
    Command g c s :=
  (funext hcd : c = d) ▸ h

/-- An atomic step with nothing to tell. -/
theorem Command.act {f : State → State} {k : State → Flow State} {s : State} (hf : Inert f)
    (next : ∀ q e, Command g k (f (s.met q e))) : Command g (fun s => (Machine.act f s).bind k) s :=
  (Command.step (p := fun _ => ()) (k := fun _ => k) {} hf next).congr fun s => act_bind f k s

/-- The counters and the guard are as they were. -/
abbrev Near (s t : State) : Prop := SameCounters s t ∧ t.guard = s.guard

theorem sameCounters_trans {s t u : State} (h : SameCounters s t) (k : SameCounters t u) : SameCounters s u :=
  ⟨k.1.trans h.1, k.2.trans h.2⟩

theorem near_trans {s t u : State} (h : Near s t) (k : Near t u) : Near s u :=
  ⟨sameCounters_trans h.1 k.1, k.2.trans h.2⟩

/-- The atomic steps of a transfer (R141, R142). -/
theorem drive_command {i : Nat} {k : State → Flow State} {s : State} (next : ∀ t, Near s t → Command g k t) :
    Command g (fun s => (driveData (Memory.read s.buf i) s).bind k) s :=
  Command.choose (p := fun s => Memory.read s.buf i) (k := fun v s => (driveData v s).bind k) {}
    (Command.act (driven_inert _) fun _ _ => next _ ⟨⟨rfl, rfl⟩, rfl⟩)

theorem pulse_command {n : State → Nat} (hn : Blind n) {k : State → Flow State} {s : State}
    (next : ∀ t, Near s t → Command g k t) : Command g (fun s => (pulseLow (n s) s).bind k) s :=
  Command.choose (k := fun m s => (pulseLow m s).bind k) hn
    (Command.act (pulsed_inert _) fun _ _ => next _ ⟨⟨rfl, rfl⟩, rfl⟩)

theorem sample_command {k : Byte × State → Flow State} {s : State}
    (next : ∀ v t, Near s t → Command g (fun u => k (v, u)) t) : Command g (fun s => (sampleData s).bind k) s :=
  (Command.step (p := fun s => lineByte s.dOut s.pins.data s.draws) (k := fun v t => k (v, t)) {} sampled_inert
    fun _ _ => next _ _ ⟨⟨rfl, rfl⟩, rfl⟩).congr fun s => sampleData_bind k s

theorem store_command {i : Nat} {v : Byte} {k : State → Flow State} {s : State}
    (next : ∀ t, Near s t → Command g k t) : Command g (fun s => (act (storeByte i v) s).bind k) s :=
  Command.act (storeByte_inert i v) fun _ _ => next _ ⟨⟨rfl, rfl⟩, rfl⟩

theorem leads_bind {β : Type} {c : State → Flow (α × State)} {d : α × State → Flow (β × State)} (hc : Leads g c)
    (hd : ∀ a, Leads g fun t => d (a, t)) : Leads g fun s => (c s).bind d := fun k _ next =>
  (hc (fun x => (d x).bind k) _ fun a t ht => hd a k t fun b u hu =>
    next b u (sameCounters_trans ht hu)).congr fun _ => bind_assoc _ _ _

theorem leads_done (a : α) : Leads g fun s => .done (a, s) := fun _ _ next => next a _ ⟨rfl, rfl⟩

theorem leads_act {f : State → State} {d : State → Flow (α × State)} (hf : Inert f)
    (hs : ∀ s, SameCounters s (f s)) (hd : Leads g d) : Leads g fun s => (act f s).bind d := fun k s next =>
  (Command.act hf fun q e => hd k _ fun a t ht =>
    next a t (sameCounters_trans (s := s) (hs (s.met q e)) ht)).congr fun _ => bind_assoc _ _ _

/-- A call of the collaborator. -/
theorem leads_call {F : CollReply → State → α × State} (hp : Blind fun s => (F (nextReply s) (popReply s)).1)
    (hf : Inert fun s => (F (nextReply s) (popReply s)).2)
    (hs : ∀ s, SameCounters s (F (nextReply s) (popReply s)).2) : Leads g (collCall F) := fun k _ next =>
  (Command.step (k := fun a t => k (a, t)) hp hf fun _ _ => next _ _ (hs _)).congr fun _ => bind_assoc _ _ _

/-! ## Storage -/

theorem leads_setReady (ok : Bool) : Leads g (setReady ok) :=
  leads_act (writeReady_inert ok) (fun _ => ⟨rfl, rfl⟩) (leads_done ok)

theorem leads_initDevice : Leads g initDevice := by
  have hinit : Leads g collInit :=
    leads_call {} { log := fun _ => List.suffix_cons _ _, replies := fun s => s.replies.tail_suffix }
      fun _ => ⟨rfl, rfl⟩
  have hcapacity : Leads g collCapacity :=
    leads_call {} { log := fun _ => List.suffix_cons _ _, replies := fun s => s.replies.tail_suffix }
      fun _ => ⟨rfl, rfl⟩
  refine leads_bind hinit fun ok => ?_
  cases ok
  · exact leads_setReady false
  · exact leads_bind hcapacity fun n =>
      leads_act (writeCapacity_inert n) (fun _ => ⟨rfl, rfl⟩) (leads_setReady true)

theorem leads_collRead (b : Nat) : Leads g (collRead b) :=
  leads_call {} { log := fun _ => List.suffix_cons _ _, replies := fun s => s.replies.tail_suffix } fun _ => ⟨rfl, rfl⟩

theorem leads_collWrite (b : Nat) : Leads g (collWrite b) :=
  leads_call {} { log := fun _ => List.suffix_cons _ _, replies := fun s => s.replies.tail_suffix } fun _ => ⟨rfl, rfl⟩

theorem leads_retryGap (n : Nat) : Leads g (retryGap n) := by
  have hgap : Leads g fun s => (wdgService s).bind fun s => (recoveryDelay s).bind fun s =>
      if n ≤ retryBound / 2 then initDevice s else .done (true, s) := by
    refine leads_act (record_inert _) (fun _ => ⟨rfl, rfl⟩) (leads_act delayed_inert (fun _ => ⟨rfl, rfl⟩) ?_)
    split
    · exact leads_initDevice
    · exact leads_done true
  exact fun k s next => Command.raise (k := fun s => Flow.bind (Flow.bind (wdgService s) _) k) (hgap k _ next)

theorem leads_retryFrom {op : State → Flow (Bool × State)} (hop : Leads g op) (n : Nat) : Leads g (retryFrom op n) := by
  induction n with
  | zero => exact leads_setReady false
  | succ n ih =>
    refine leads_bind hop fun ok => ?_
    cases ok
    · refine leads_act (writeRem_inert n) (fun _ => ⟨rfl, rfl⟩) ?_
      split
      · exact ih
      · refine leads_bind (leads_retryGap n) fun ok => ?_
        cases ok
        · exact leads_done false
        · exact ih
    · exact leads_done true

theorem leads_retry {op : State → Flow (Bool × State)} (hop : Leads g op) : Leads g (retry op) :=
  leads_act (writeRem_inert retryBound) (fun _ => ⟨rfl, rfl⟩) (leads_retryFrom hop retryBound)

/-! ## Transfers -/

theorem endTransfer_command {k : State → Flow State} {s : State} (next : ∀ t, SameCounters s t → Command g k t) :
    Command g (fun s => (endTransfer s).bind k) s :=
  (Command.act (releaseLines_inert .dma) fun _ _ => Command.act (writeGuard_inert false) fun _ _ =>
    next _ ⟨rfl, rfl⟩).congr fun _ => bind_assoc _ _ _

/-- A sequence that returns with the counters it began with. -/
abbrev KeepsCounters (s : State) (f : Flow State) : Prop := f.Sat (SameCounters s) fun _ => True

theorem keepsCounters_bind {s : State} {f : Flow State} {k : State → Flow State} (hf : KeepsCounters s f)
    (hk : ∀ t, KeepsCounters t (k t)) : KeepsCounters s (f.bind k) :=
  sat_bind hf fun t ht => sat_mono (hk t) (fun _ => sameCounters_trans ht) fun _ _ => trivial

theorem act_keepsCounters {f : State → State} (hf : ∀ s, SameCounters s (f s)) (s : State) :
    KeepsCounters s (act f s) := by
  unfold act tick
  split
  · exact hf s
  · exact hf _
  · trivial

theorem spinUntil_keepsCounters (w : WaitKind) (ph : Phase) (s : State) : KeepsCounters s (spinUntil w ph s) := by
  rw [spinUntil_eq]
  cases spun w s.pins s.env with
  | ended q e => exact ⟨rfl, rfl⟩
  | stuck q => trivial
  | reset q e => trivial

theorem endTransfer_keepsCounters (s : State) : KeepsCounters s (endTransfer s) :=
  keepsCounters_bind (act_keepsCounters (f := releaseLines .dma) (fun _ => ⟨rfl, rfl⟩) s)
    (act_keepsCounters (f := State.writeGuard false) fun _ => ⟨rfl, rfl⟩)

theorem sampleData_keepsCounters {k : Byte × State → Flow State} (s : State)
    (hk : ∀ v t, SameCounters s t → KeepsCounters s (k (v, t))) : KeepsCounters s ((sampleData s).bind k) := by
  rw [sampleData_bind]
  unfold tick
  split
  · exact hk _ _ ⟨rfl, rfl⟩
  · exact hk _ _ ⟨rfl, rfl⟩
  · trivial

theorem sendFrom_keepsCounters (n : Nat) (next : AfterSend) (k i : Nat) (s : State) :
    KeepsCounters s (sendFrom n next k i s) := by
  induction k generalizing i s with
  | zero => exact endTransfer_keepsCounters s
  | succ k ih =>
    refine keepsCounters_bind (act_keepsCounters (by exact fun _ => ⟨rfl, rfl⟩) s) fun t => ?_
    refine keepsCounters_bind (act_keepsCounters (by exact fun _ => ⟨rfl, rfl⟩) t) fun u => ?_
    exact keepsCounters_bind (spinUntil_keepsCounters _ _ u) fun v => ih (i + 1) v

theorem recvFrom_keepsCounters (k i : Nat) (s : State) : KeepsCounters s (recvFrom k i s) := by
  induction k generalizing i s with
  | zero => exact endTransfer_keepsCounters s
  | succ k ih =>
    refine keepsCounters_bind (act_keepsCounters (by exact fun _ => ⟨rfl, rfl⟩) s) fun t => ?_
    refine sampleData_keepsCounters t fun v u hu => ?_
    have hstore : KeepsCounters u ((act (storeByte i v) u).bind fun s => (waitRecvAck i s).bind (recvFrom k (i + 1))) :=
      keepsCounters_bind (act_keepsCounters (by exact fun _ => ⟨rfl, rfl⟩) u) fun t =>
        keepsCounters_bind (spinUntil_keepsCounters _ _ t) (ih (i + 1))
    exact sat_mono hstore (fun _ => sameCounters_trans hu) fun _ _ => trivial

/-- What follows a sequence can be changed where the counters are those it began with. -/
theorem bind_congr_of_counters {s : State} {f : Flow State} {k l : State → Flow State} (hf : KeepsCounters s f)
    (h : ∀ t, SameCounters s t → k t = l t) : f.bind k = f.bind l := by
  cases f with
  | done t => exact h t hf
  | halt t => rfl

/-- From the acknowledge wait of a `Send` the engine goes on with the rest of the `Send` and what follows it. -/
theorem resumeSend_goes_on {n i k : Nat} {next : AfterSend} (hn : n ≤ bufCap) (hk : n - (i + 1) = k) {s : State}
    (hok : s.cfg.ok = true) {c : State → Flow State} (hafter : ∀ t, SameCounters s t → c t = afterSend next t)
    (q : Pins) (e : List EnvEvent) :
    step (writePhase (.dispatching (.sendAck i n next)) (s.met q e)) =
      ((waitSendAck n next i (writePhase (.dispatching (.sendAck i n next)) (s.met q e))).bind fun s =>
        (sendFrom n next k (i + 1) s).bind c).next := by
  rw [step_sendAck (s := writePhase _ (s.met q e)) hok rfl, resumeSend_eq next hn, hk, ← bind_assoc]
  refine congrArg Flow.next (bind_congr_of_counters (s := s) ?_ fun t ht => (hafter t ht).symm)
  exact keepsCounters_bind (spinUntil_keepsCounters _ _ (writePhase (.dispatching (.sendAck i n next)) (s.met q e)))
    fun t => sendFrom_keepsCounters n next k (i + 1) t

theorem sendFrom_command {n : Nat} {next : AfterSend} (hn : n ≤ bufCap) {c : State → Flow State} (k i : Nat)
    (hi : n - i = k) {s : State} (hg : g → s.guard = true)
    (hafter : ∀ t, SameCounters s t → c t = afterSend next t) (hc : ∀ t, SameCounters s t → Command g c t) :
    Command g (fun s => (sendFrom n next k i s).bind c) s := by
  induction k generalizing i s with
  | zero => exact endTransfer_command hc
  | succ k ih =>
    have hstep : Command g (fun s => (driveData (Memory.read s.buf i) s).bind fun s =>
        (pulseLow s.cfg.sendPulseCycles s).bind fun s =>
        (waitSendAck n next i s).bind fun s => (sendFrom n next k (i + 1) s).bind c) s := by
      refine drive_command fun t ht => pulse_command {} fun u hu => ?_
      obtain ⟨hsame, hguard⟩ := near_trans ht hu
      refine Command.wait (fun h => hguard.trans (hg h)) rfl (fun q e hok => ?_) fun q e => ?_
      · exact resumeSend_goes_on hn (by omega) hok (fun v hv => hafter v (sameCounters_trans hsame hv)) q e
      · exact ih (i + 1) (by omega) (fun h => hguard.trans (hg h))
          (fun v hv => hafter v (sameCounters_trans hsame hv)) fun v hv => hc v (sameCounters_trans hsame hv)
    refine hstep.congr fun s => ?_
    rw [sendFrom]
    simp only [bind_assoc]

theorem send_command {n : Nat} {next : AfterSend} (hn : n ≤ bufCap) {c : State → Flow State} {s : State}
    (hafter : ∀ t, SameCounters s t → c t = afterSend next t) (hc : ∀ t, SameCounters s t → Command g c t) :
    Command g (fun s => (send n next s).bind c) s :=
  (Command.act (writeGuard_inert true) fun _ _ =>
    sendFrom_command hn n 0 (Nat.sub_zero n) (fun _ => rfl) (by exact hafter) (by exact hc)).congr
      fun _ => bind_assoc _ _ _

/-- What follows the `Receive` of a block when the engine goes on from one of its waits (R292). -/
def afterReceive (s : State) : Flow State :=
  storeBlock (writeLoop (s.cnt.toNat - 1) (s.blk + 1)) s.blk (s.cnt.toNat - 1) s

/-- From the acknowledge wait of a `Receive` the engine goes on with the rest of the `Receive` and what follows it. -/
theorem resumeReceive_goes_on {i k : Nat} (hk : blockSize - (i + 1) = k) {s : State} (hok : s.cfg.ok = true)
    {c : State → Flow State} (hafter : ∀ t, SameCounters s t → c t = afterReceive t) (q : Pins) (e : List EnvEvent) :
    step (writePhase (.dispatching (.recvAck i)) (s.met q e)) =
      ((waitRecvAck i (writePhase (.dispatching (.recvAck i)) (s.met q e))).bind fun s =>
        (recvFrom k (i + 1) s).bind c).next := by
  rw [step_recvAck (s := writePhase _ (s.met q e)) hok rfl, resumeReceive, hk, ← bind_assoc]
  refine congrArg Flow.next (bind_congr_of_counters (s := s) ?_ fun t ht => (hafter t ht).symm)
  exact keepsCounters_bind (spinUntil_keepsCounters _ _ (writePhase (.dispatching (.recvAck i)) (s.met q e)))
    fun t => recvFrom_keepsCounters k (i + 1) t

theorem recvFrom_command {c : State → Flow State} (k i : Nat) (hi : blockSize - i = k) {s : State}
    (hg : g → s.guard = true) (hafter : ∀ t, SameCounters s t → c t = afterReceive t)
    (hc : ∀ t, SameCounters s t → Command g c t) : Command g (fun s => (recvFrom k i s).bind c) s := by
  induction k generalizing i s with
  | zero => exact endTransfer_command hc
  | succ k ih =>
    have hstep : Command g (fun s => (pulseLow s.cfg.recvPulseCycles s).bind fun s => (sampleData s).bind fun (v, s) =>
        (act (storeByte i v) s).bind fun s =>
        (waitRecvAck i s).bind fun s => (recvFrom k (i + 1) s).bind c) s := by
      refine pulse_command {} fun t ht => sample_command fun v u hu => store_command fun w hw => ?_
      obtain ⟨hsame, hguard⟩ := near_trans (near_trans ht hu) hw
      refine Command.wait (fun h => hguard.trans (hg h)) rfl (fun q e hok => ?_) fun q e => ?_
      · exact resumeReceive_goes_on (by omega) hok (fun v hv => hafter v (sameCounters_trans hsame hv)) q e
      · exact ih (i + 1) (by omega) (fun h => hguard.trans (hg h))
          (fun v hv => hafter v (sameCounters_trans hsame hv)) fun v hv => hc v (sameCounters_trans hsame hv)
    refine hstep.congr fun s => ?_
    rw [recvFrom]
    simp only [bind_assoc]

theorem receive_command {c : State → Flow State} {s : State} (hafter : ∀ t, SameCounters s t → c t = afterReceive t)
    (hc : ∀ t, SameCounters s t → Command g c t) : Command g (fun s => (receive blockSize s).bind c) s :=
  (Command.act (writeGuard_inert true) fun _ _ =>
    recvFrom_command blockSize 0 (Nat.sub_zero _) (fun _ => rfl) (by exact hafter) (by exact hc)).congr
      fun _ => bind_assoc _ _ _

/-! ## The commands -/

theorem sendSuccess_command (s : State) : Command g sendSuccess s := Command.status (.inl rfl)

theorem raiseError_command (e : ErrorKind) (s : State) : Command g (raiseError e) s :=
  Command.raise (k := sendError) (Command.status (.inr rfl))

/-- A command goes on by whether a part succeeded. -/
theorem ifOk_command {c : State → Flow (Bool × State)} {d e : State → Flow State} (hc : Leads g c) {s : State}
    (hd : ∀ t, SameCounters s t → Command g d t) (he : ∀ t, SameCounters s t → Command g e t) :
    Command g (fun s => (c s).bind fun (ok, s) => if ok then d s else e s) s :=
  hc _ s fun ok t ht => by
    cases ok
    · exact he t ht
    · exact hd t ht

theorem prologue_command {body : State → Flow State} (hb : ∀ t, Command g body t) (s : State) :
    Command g (prologue body) s := by
  refine Command.choose (p := fun s => s.dsReady)
    (k := fun b s => if b then body s else
      (initDevice s).bind fun (ok, s) => if ok then body s else raiseError .notReady s) {} ?_
  cases s.dsReady
  · exact ifOk_command leads_initDevice (fun t _ => hb t) fun t _ => raiseError_command .notReady t
  · exact hb s

theorem forceInit_command (s : State) : Command g forceInit s :=
  ifOk_command leads_initDevice (fun t _ => sendSuccess_command t) fun t _ => raiseError_command .storageFatal t

theorem sendResponse_command {n : Nat} (hn : n ≤ bufCap) (s : State) : Command g (sendResponse n) s :=
  send_command (next := .status) hn (fun _ _ => rfl) fun t _ => sendSuccess_command t

theorem respond_command (l : List Byte) {n : Nat} (hn : n ≤ bufCap) (s : State) : Command g (respond l n) s :=
  Command.act (memWrite_inert l) fun _ _ => sendResponse_command hn _

theorem storeBytes_command {c : State → Flow State} (hc : ∀ t, Command g c t) (l : List Byte) (i : Nat) (s : State) :
    Command g (fun s => (storeBytes l i s).bind c) s := by
  induction l generalizing i s with
  | nil => exact hc s
  | cons v l ih => exact (Command.act (storeByte_inert i v) fun _ _ => ih (i + 1) _).congr fun _ => bind_assoc _ _ _

/-- The count of a command is a count of bytes that the buffer has (R60, R95). -/
theorem countOperand_le (a : Args) : countOperand a ≤ bufCap := by
  have : a.len.toNat < 256 := a.len.isLt
  simp only [countOperand, bufCap]
  omega

theorem requestSense_command (a : Args) (s : State) : Command g (requestSense (countOperand a)) s :=
  leads_initDevice _ s fun _ _ _ =>
    Command.choose (p := fun s => senseResponse s.dsCapacity (senseLength (countOperand a)))
      (k := fun l => respond l (countOperand a)) {} (respond_command _ (countOperand_le a) _)

theorem inquiry_command (a : Args) (s : State) : Command g (inquiry (countOperand a)) s :=
  Command.choose (p := fun s => inquiryResponse s.cfg (countOperand a))
    (k := fun l s => (storeBytes l 0 s).bind (sendResponse (countOperand a))) {}
    (storeBytes_command (fun t => sendResponse_command (countOperand_le a) t) _ 0 s)

/-- `CNT` holds a count of at most 255 blocks. -/
theorem writeCnt_toNat {n : Nat} (hn : n < 256) (s : State) : (writeCnt n s).cnt.toNat = n :=
  (BitVec.toNat_ofNat n 8).trans (Nat.mod_eq_of_lt hn)

/-- What follows a block goes on with the count in `CNT`. -/
theorem writeCnt_command {rest : State → Flow State} {n : Nat} (hn : n < 256)
    (hr : ∀ t, t.cnt.toNat = n → Command g rest t) (s : State) :
    Command g (fun s => (act (writeCnt n) s).bind rest) s :=
  Command.act (writeCnt_inert n) fun q e => hr _ (writeCnt_toNat hn (s.met q e))

/-- The head of an iteration writes `BLK` and keeps `CNT`. -/
theorem blockHead_command {b : Nat} {k : State → Flow State} {s : State}
    (next : ∀ t, t.cnt = s.cnt → t.blk = b → Command g k t) : Command g (fun s => (blockHead b s).bind k) s :=
  (Command.act (writeBlk_inert b) fun _ _ => Command.act (record_inert .wdgService) fun _ _ =>
    next _ rfl rfl).congr fun _ => bind_assoc _ _ _

/-- The loop of Read-block when `CNT` holds the blocks that remain (R291). -/
theorem readLoop_command (n b : Nat) (hn : n < 256) (s : State) (hs : s.cnt.toNat = n) :
    Command g (readLoop n b) s := by
  induction n generalizing b s with
  | zero => exact sendSuccess_command s
  | succ n ih =>
    refine blockHead_command fun t hcnt hblk => ?_
    refine ifOk_command (d := fun s => (send blockSize .readLoop s).bind fun s =>
      (act (writeCnt n) s).bind (readLoop n (b + 1))) (leads_retry (leads_collRead b)) (fun u hu => ?_)
      fun u _ => raiseError_command .storageFatal u
    refine send_command (next := .readLoop) (by decide) (fun v hv => ?_) fun v _ =>
      writeCnt_command (by omega) (fun w hw => ih (b + 1) (by omega) w hw) v
    obtain ⟨hvcnt, hvblk⟩ := sameCounters_trans hu hv
    rw [afterSend, hvcnt, hvblk, hcnt, hblk, hs, Nat.add_sub_cancel]

theorem storeBlock_command {rest : State → Flow State} (b : Nat) {n : Nat} (hn : n < 256)
    (hr : ∀ t, t.cnt.toNat = n → Command g rest t) (s : State) : Command g (storeBlock rest b n) s :=
  ifOk_command (leads_retry (leads_collWrite b)) (fun t _ => writeCnt_command hn hr t)
    fun t _ => raiseError_command .storageFatal t

/-- The loop of Write-block when `CNT` holds the blocks that remain (R292). -/
theorem writeLoop_command (n b : Nat) (hn : n < 256) (s : State) (hs : s.cnt.toNat = n) :
    Command g (writeLoop n b) s := by
  induction n generalizing b s with
  | zero => exact sendSuccess_command s
  | succ n ih =>
    refine blockHead_command fun t hcnt hblk => receive_command (fun u hu => ?_) fun u _ =>
      storeBlock_command b (by omega) (fun v hv => ih (b + 1) (by omega) v hv) u
    rw [afterReceive, hu.1, hu.2, hcnt, hblk, hs, Nat.add_sub_cancel]

theorem blockCommand_command {loop : Nat → Nat → State → Flow State}
    (hl : ∀ n b, n < 256 → ∀ t : State, t.cnt.toNat = n → Command g (loop n b) t) (a : Args) (s : State) :
    Command g (blockCommand loop a) s := by
  refine Command.choose (p := rangeOk a) (k := fun ok s =>
    if ok then (act (writeCnt (countOperand a)) s).bind (loop (countOperand a) (blockIndex a))
    else raiseError .range s) {} ?_
  cases rangeOk a s
  · exact raiseError_command .range s
  · exact writeCnt_command a.len.isLt (hl _ _ a.len.isLt) s

/-- Every command from its first line on (R231). -/
theorem exec_command (i : Instr) (s : State) :
    ∃ c : State → Flow State, (∀ s, exec i s = (c s).next) ∧ Command g c s := by
  cases i with
  | testReady a | formatDrive a | verifyTrack a | formatTrack a =>
    exact ⟨_, fun _ => rfl, prologue_command forceInit_command s⟩
  | seek a | correction a | modeSelect a | ship a =>
    exact ⟨_, fun _ => rfl, prologue_command sendSuccess_command s⟩
  | requestSense a => exact ⟨_, fun _ => rfl, prologue_command (requestSense_command a) s⟩
  | inquiry a => exact ⟨_, fun _ => rfl, prologue_command (inquiry_command a) s⟩
  | modeSense0 a =>
    exact ⟨_, fun _ => rfl, prologue_command (fun t => Command.choose (p := fun s => modePage0 s.cfg s.dsCapacity)
      (k := fun l => respond l ms0Len) {} (respond_command _ (by decide) t)) s⟩
  | modeSense4 a =>
    exact ⟨_, fun _ => rfl, prologue_command (fun t => Command.choose (p := fun s => modePage4 s.cfg s.dsCapacity)
      (k := fun l => respond l ms4Len) {} (respond_command _ (by decide) t)) s⟩
  | readBlock a =>
    exact ⟨_, fun _ => rfl, prologue_command (blockCommand_command (fun n b => readLoop_command n b) a) s⟩
  | writeBlock a =>
    exact ⟨_, fun _ => rfl, prologue_command (blockCommand_command (fun n b => writeLoop_command n b) a) s⟩
  | unsupported o a => exact ⟨_, fun _ => rfl, prologue_command (raiseError_command .unsupportedCommand) s⟩

/-! ## The commands from one of their waits on -/

theorem afterSend_command (next : AfterSend) (s : State) : Command g (afterSend next) s := by
  cases next with
  | status => exact sendSuccess_command s
  | readLoop =>
    have hlt : s.cnt.toNat - 1 < 256 := by have := s.cnt.isLt; omega
    exact Command.choose (p := fun s => (s.cnt.toNat - 1, s.blk + 1))
      (k := fun x s => (act (writeCnt x.1) s).bind (readLoop x.1 x.2)) {}
      (writeCnt_command hlt (fun t ht => readLoop_command _ _ hlt t ht) s)

theorem afterReceive_command (s : State) : Command g afterReceive s := by
  have hlt : s.cnt.toNat - 1 < 256 := by have := s.cnt.isLt; omega
  exact Command.choose (p := fun s => (s.cnt.toNat - 1, s.blk))
    (k := fun x => storeBlock (writeLoop x.1 (x.2 + 1)) x.2 x.1) {}
    (storeBlock_command _ hlt (fun t ht => writeLoop_command _ _ hlt t ht) s)

/-- From the wait of a byte of a `Send` that the buffer has; the guard is then as it may be. -/
theorem resumeSend_command (i : Nat) {n : Nat} (next : AfterSend) (hn : n ≤ bufCap) (s : State) :
    Command False (fun s => ((waitSendAck n next i s).bind (sendFrom n next (n - (i + 1)) (i + 1))).bind
      (afterSend next)) s := by
  refine Command.congr (Command.wait False.elim rfl (fun q e hok => ?_) fun q e => ?_) fun s => bind_assoc _ _ _
  · exact resumeSend_goes_on hn rfl hok (fun _ _ => rfl) q e
  · exact sendFrom_command hn _ (i + 1) rfl False.elim (fun _ _ => rfl) fun t _ => afterSend_command next t

theorem resumeReceive_command (i : Nat) (s : State) : Command False (resumeReceive i) s := by
  refine Command.congr (Command.wait False.elim rfl (fun q e hok => ?_) fun q e => ?_) fun s => bind_assoc _ _ _
  · exact resumeReceive_goes_on rfl hok (fun _ _ => rfl) q e
  · exact recvFrom_command _ (i + 1) rfl False.elim (fun _ _ => rfl) fun t _ => afterReceive_command t

end Sys2Proof.Machine
end

section
/-! Where commands are left (R339, R75): every command, from its first line or from one of its waits, ends in `Idle` or
is left in a wait, with the frame registers as they were. -/

namespace Sys2Proof.Machine

variable {g : Prop}

/-! ## One atomic step by the schedule -/

theorem tick_nil {s : State} (h : s.env = []) : tick s = .done (s.met s.pins []) := by
  have hs : s.met s.pins [] = s := by rw [← h]; rfl
  rw [tick, h, hs]

theorem tick_peer {s : State} {q : Pins} {e : List EnvEvent} (h : s.env = .peer q :: e) :
    tick s = .done (s.met q e) := by
  rw [tick, h, State.met]

theorem tick_watchdog {s : State} {e : List EnvEvent} (h : s.env = .watchdog :: e) :
    tick s = .halt (watchdogReset (s.met s.pins e)) := by
  rw [tick, h, State.met]

theorem Steady.env_eq {f : State → State} (hf : Steady f) (s : State) : (f s).env = s.env :=
  (congrArg State.env (hf.env s s.env) :)

/-- Without a reset an atomic step comes to its end. -/
theorem tick_met {s : State} (h : NoReset s) : ∃ q e, tick s = .done (s.met q e) ∧ EnvEvent.watchdog ∉ e := tick_quiet h

/-! ## The status -/

/-- The command cycle of `s` is over in `t`, or the engine is left in a wait of the dispatcher or of the status, with
the guard held if `g`; in either case the frame registers are as they were. -/
def LeftBy (g : Prop) (s t : State) : Prop :=
  t.cf = s.cf ∧ t.bi = s.bi ∧ (t.phase = .idle ∨
    (Hung t ∧ (g → t.guard = true) ∧ ((∃ p, t.phase = .dispatching p) ∨ ∃ p, t.phase = .sendingStatus p)))

theorem leftBy_of_frame {s t u : State} (hcf : t.cf = s.cf) (hbi : t.bi = s.bi) (h : LeftBy g t u) : LeftBy g s u :=
  ⟨h.1.trans hcf, h.2.1.trans hbi, h.2.2⟩

theorem statusReturn_left {s : State} (h : NoReset s) : LeftBy g s (statusReturn s).state := by
  rw [statusReturn_does s (noReset_take h 4)]
  exact ⟨rfl, rfl, .inl rfl⟩

/-- A wait of the status handshake and what follows it. -/
theorem statusSpin_left {w : WaitKind} {p : StatusPos} (hw : (Phase.sendingStatus p).wait = some w)
    {k : State → Flow State} {s : State} (h : NoReset s) (hg : g → s.guard = true)
    (hk : ∀ t, NoReset t → (g → t.guard = true) → LeftBy g t (k t).state) :
    LeftBy g s ((spinUntil w (.sendingStatus p) s).bind k).state := by
  rcases spinUntil_quiet w (.sendingStatus p) h with ⟨q, e, ht, hn⟩ | ⟨q, ht, hq⟩ <;> rw [ht]
  · exact hk (State.record (.waited w) (s.met q e)) hn hg
  · exact ⟨rfl, rfl, .inr ⟨⟨rfl, w, hw, hq⟩, hg, .inr ⟨p, rfl⟩⟩⟩

theorem resumeStatus_left (p : StatusPos) {s : State} (h : NoReset s) (hg : g → s.guard = true) :
    LeftBy g s (resumeStatus p s).state := by
  have hdeasserted : ∀ t, NoReset t → (g → t.guard = true) →
      LeftBy g t ((statusWaitDeasserted t).bind statusReturn).state := fun t hn hg =>
    statusSpin_left rfl hn hg fun u hu _ => statusReturn_left hu
  cases p with
  | asserted =>
    rw [resumeStatus, bind_assoc]
    exact statusSpin_left rfl h hg hdeasserted
  | deasserted => exact hdeasserted s h hg

/-- The wait and the return of a handshake are what the engine does from that wait on. -/
theorem statusWait_eq (s : State) : (statusWait s).bind statusReturn = resumeStatus (statusStart s.cfg) s := by
  unfold statusWait statusStart
  cases s.cfg.statusWait <;> rfl

/-- Without a reset the handshake is its five steps, then its wait and its return. -/
theorem sendStatus_of_noReset (code : Byte) {s : State} (h : NoReset s) :
    sendStatus code s = resumeStatus (statusStart s.cfg) (statusDriven code (s.moved 5)) := by
  rw [sendStatus_eq, statusHead_does code s (noReset_take h 5), bind_done, statusWait_eq]
  rfl

theorem sendStatus_left (code : Byte) {s : State} (h : NoReset s) : LeftBy g s (sendStatus code s).state := by
  rw [sendStatus_of_noReset code h]
  exact leftBy_of_frame (t := statusDriven code (s.moved 5)) rfl rfl
    (resumeStatus_left _ (noReset_moved h 5) fun _ => rfl)

/-! ## The commands -/

theorem Command.left {c : State → Flow State} {s : State} (h : Command g c s) (hn : NoReset s) :
    LeftBy g s (c s).state := by
  induction h with
  | status => exact sendStatus_left _ hn
  | @step ι p f k s hp hf next ih =>
    obtain ⟨q, e, ht, he⟩ := tick_met hn
    obtain ⟨hcf, hbi⟩ := hf.frame (s.met q e)
    have hleft := ih q e (by rwa [NoReset, hf.env_eq])
    show LeftBy g s ((tick s).bind _).state
    rw [ht, bind_done]
    exact leftBy_of_frame hcf hbi hleft
  | raise next ih => exact ih hn
  | choose hp next ih => exact ih hn
  | @wait pos k s hg hpos resume next ih =>
    show LeftBy g s ((spinUntil .ackAsserted (.dispatching pos) s).bind k).state
    rcases spinUntil_quiet .ackAsserted (.dispatching pos) hn with ⟨q, e, ht, he⟩ | ⟨q, ht, hq⟩ <;> rw [ht]
    · exact leftBy_of_frame (t := State.record (.waited .ackAsserted) (s.met q e)) rfl rfl (ih q e he)
    · exact ⟨rfl, rfl, .inr ⟨⟨rfl, .ackAsserted, hpos, hq⟩, hg, .inl ⟨pos, rfl⟩⟩⟩

/-- Settles O31: the waits of a command are those of its transfers, with the guard held, and those of its status. -/
theorem commandsHangOnlyInTheWaits : Obligations.CommandsHangOnlyInTheWaits := by
  intro s t i hn ht
  obtain ⟨c, hc, hcommand⟩ := exec_command (g := True) i s
  obtain rfl : (c s).state = t := Host.Outcome.next.inj ((hc s).symm.trans ht)
  obtain ⟨_, _, hleft⟩ := hcommand.left hn
  exact hleft.imp_right fun ⟨hung, hguard, hphase⟩ => ⟨hung, hguard trivial, hphase⟩

/-- Settles O59: from its first line or from one of its waits, a command leaves the frame registers. -/
theorem frameIsImmutableInDispatch : Obligations.FrameIsImmutableInDispatch := by
  intro s t hn ht hphase
  have hok := ok_of_step ht
  have hleft : LeftBy False s t := by
    rcases hphase with ⟨pos, hp⟩ | ⟨p, hp⟩
    · cases pos with
      | start =>
        obtain ⟨c, hc, hcommand⟩ := exec_command (g := False) (decodeFrame s.cfg s.cf) s
        rw [step_start hok hp, hc] at ht
        exact Host.Outcome.next.inj ht ▸ hcommand.left hn
      | sendAck i n next =>
        rw [step_sendAck hok hp] at ht
        by_cases hlen : n ≤ bufCap
        · rw [resumeSend_eq next hlen] at ht
          exact Host.Outcome.next.inj ht ▸ (resumeSend_command i next hlen s).left hn
        · rw [resumeSend, if_neg hlen] at ht
          cases ht
      | recvAck i =>
        rw [step_recvAck hok hp] at ht
        exact Host.Outcome.next.inj ht ▸ (resumeReceive_command i s).left hn
    · rw [step_sendingStatus hok hp] at ht
      exact Host.Outcome.next.inj ht ▸ resumeStatus_left p hn False.elim
  exact hleft.1

end Sys2Proof.Machine
end

section
/-! A command left in a wait goes on as if it had never stopped (R23, R144, R339). The phase, the only thing that being
left in a wait changes, has no part in what a command does; and a wait over a schedule and what comes after it is the
wait over what comes after, from the lines that the schedule leaves. -/

namespace Sys2Proof.Machine

variable {g : Prop} {γ : Type}

/-! ## The phase has no part in a command -/

theorem tick_bind_writePhase {ph : Phase} {k : State → Flow γ} {s : State}
    (hk : ∀ q e, k (writePhase ph (s.met q e)) = k (s.met q e)) :
    (tick (writePhase ph s)).bind k = (tick s).bind k := by
  cases henv : s.env with
  | nil =>
    rw [tick_nil henv, tick_nil (s := writePhase ph s) henv]
    exact hk _ _
  | cons x es =>
    cases x with
    | peer q =>
      rw [tick_peer henv, tick_peer (s := writePhase ph s) henv]
      exact hk q es
    | watchdog =>
      rw [tick_watchdog henv, tick_watchdog (s := writePhase ph s) henv]
      rfl

theorem spinUntil_bind_writePhase {w : WaitKind} {left ph : Phase} {k : State → Flow γ} {s : State}
    (hk : ∀ q e, k (writePhase ph (State.record (.waited w) (s.met q e))) = k (State.record (.waited w) (s.met q e))) :
    (spinUntil w left (writePhase ph s)).bind k = (spinUntil w left s).bind k := by
  rw [spinUntil_eq, spinUntil_eq]
  show (Spun.flow w left (writePhase ph s) (spun w s.pins s.env)).bind k = _
  cases spun w s.pins s.env with
  | ended q e => exact hk q e
  | stuck q => rfl
  | reset q e => rfl

theorem act_bind_writePhase {f : State → State} {ph : Phase} {k : State → Flow γ} {s : State}
    (hk : ∀ q e, k (f (writePhase ph (s.met q e))) = k (f (s.met q e))) :
    (act f (writePhase ph s)).bind k = (act f s).bind k := by
  rw [act_bind, act_bind]
  exact tick_bind_writePhase hk

/-- An atomic step that leaves the phase alone, before a sequence that the phase has no part in. -/
theorem act_bind_phaseFree {f : State → State} {ph : Phase} {k : State → Flow γ}
    (hf : ∀ s, f (writePhase ph s) = writePhase ph (f s)) (hk : ∀ s, k (writePhase ph s) = k s) (s : State) :
    (act f (writePhase ph s)).bind k = (act f s).bind k :=
  act_bind_writePhase fun q e => (congrArg k (hf (s.met q e))).trans (hk _)

theorem statusReturn_writePhase (ph : Phase) (s : State) : statusReturn (writePhase ph s) = statusReturn s :=
  act_bind_phaseFree (f := releaseLines .all) (fun _ => rfl)
    (act_bind_phaseFree (f := State.writeGuard false) (fun _ => rfl)
      (act_bind_phaseFree (f := State.writeStatusDone true) (fun _ => rfl)
        fun s => tick_bind_writePhase (ph := ph) (s := s) (k := fun s => .done (writePhase .idle s)) fun _ _ => rfl)) s

theorem sendStatus_writePhase (code : Byte) (ph : Phase) (s : State) :
    sendStatus code (writePhase ph s) = sendStatus code s :=
  act_bind_writePhase fun _ _ => rfl

theorem Command.writePhase {c : State → Flow State} {s : State} (h : Command g c s) (ph : Phase) :
    c (writePhase ph s) = c s := by
  induction h with
  | status => exact sendStatus_writePhase _ ph _
  | step hp hf next ih =>
    exact tick_bind_writePhase fun q e => by
      rw [hp.phase, hf.phase]
      exact ih q e
  | raise next ih => exact ih
  | @choose ι p k s hp next ih =>
    show k (p (Machine.writePhase ph s)) (Machine.writePhase ph s) = k (p s) s
    rw [hp.phase]
    exact ih
  | wait hg hpos resume next ih => exact spinUntil_bind_writePhase ih

/-! ## Waits over a schedule and what comes after it -/

/-- A wait that ends over a schedule ends there with anything scheduled after it, unless it ends at once. -/
theorem spun_append_of_ended {w : WaitKind} {q r : Pins} {es e : List EnvEvent} (h : spun w q es = .ended r e) :
    (es = [] ∧ e = [] ∧ r = q ∧ w.holds q = true) ∨ (es ≠ [] ∧ ∀ a, spun w q (es ++ a) = .ended r (e ++ a)) := by
  induction es generalizing q with
  | nil =>
    unfold spun at h
    split at h
    · next hq =>
      obtain ⟨rfl, rfl⟩ := Spun.ended.inj h
      exact .inl ⟨rfl, rfl, rfl, hq⟩
    · cases h
  | cons x es ih =>
    refine .inr ⟨List.cons_ne_nil x es, fun a => ?_⟩
    cases x with
    | watchdog => cases h
    | peer p =>
      rw [List.cons_append]
      unfold spun at h ⊢
      split
      · next hp =>
        rw [if_pos hp] at h
        obtain ⟨rfl, rfl⟩ := Spun.ended.inj h
        rfl
      · next hp =>
        rw [if_neg hp] at h
        rcases ih h with ⟨_, _, _, hpp⟩ | ⟨_, hall⟩
        · exact absurd hpp hp
        · exact hall a

/-- A wait that does not end over a schedule goes on from the lines that the schedule leaves. -/
theorem spun_append_of_stuck {w : WaitKind} {q r : Pins} {es : List EnvEvent} (h : spun w q es = .stuck r) :
    (es = [] → r = q) ∧ ∀ a, spun w q (es ++ a) = spun w r a := by
  induction es generalizing q with
  | nil =>
    unfold spun at h
    split at h
    · cases h
    · obtain rfl := Spun.stuck.inj h
      exact ⟨fun _ => rfl, fun _ => rfl⟩
  | cons x es ih =>
    cases x with
    | watchdog => cases h
    | peer p =>
      unfold spun at h
      split at h
      · cases h
      · next hp =>
        refine ⟨nofun, fun a => ?_⟩
        rw [List.cons_append, spun, if_neg hp]
        exact (ih h).2 a

/-- Without a reset in the schedule a wait ends or not, and none is left. -/
theorem spun_of_noReset {w : WaitKind} {q : Pins} {es : List EnvEvent} (h : EnvEvent.watchdog ∉ es) :
    (∃ r e, spun w q es = .ended r e ∧ EnvEvent.watchdog ∉ e) ∨ ∃ r, spun w q es = .stuck r := by
  induction es generalizing q with
  | nil =>
    unfold spun
    split
    · exact .inl ⟨q, [], rfl, h⟩
    · exact .inr ⟨q, rfl⟩
  | cons x es ih =>
    rw [List.mem_cons, not_or] at h
    cases x with
    | watchdog => exact absurd rfl h.1
    | peer p =>
      unfold spun
      split
      · exact .inl ⟨p, es, rfl, h.2⟩
      · exact ih h.2

/-! ## Going on -/

/-- If the sequence is left in a wait, then with any schedule the next step does what the sequence would have done with
it, the peer's lines being held for `n` steps before. -/
def Resumes (c : State → Flow State) (s : State) : Prop :=
  NoReset s → s.cfg.ok = true → ∀ t, (c s).state = t → t.phase ≠ .idle →
    (s.env = [] → t.pins = s.pins) ∧
    ∃ n, ∀ e, step (t.scheduled e) = (c (s.scheduled (s.env ++ List.replicate n (.peer t.pins) ++ e))).next

variable {c k : State → Flow State} {s : State}

/-- Over held lines the entry that the atomic step takes is one more. -/
theorem resumes_tick (hc : ∀ s, c s = (tick s).bind k) (next : ∀ q e, Resumes k (s.met q e)) : Resumes c s := by
  intro hn hok t ht hidle
  cases henv : s.env with
  | nil =>
    rw [hc, tick_nil henv, bind_done] at ht
    obtain ⟨hpins, n, hstep⟩ := next s.pins [] nofun hok t ht hidle
    have htpins : t.pins = s.pins := hpins rfl
    refine ⟨fun _ => htpins, n + 1, fun e => ?_⟩
    rw [hstep, htpins, hc]
    rfl
  | cons x es =>
    rw [NoReset, henv, List.mem_cons, not_or] at hn
    cases x with
    | watchdog => exact absurd rfl hn.1
    | peer q =>
      rw [hc, tick_peer henv, bind_done] at ht
      obtain ⟨_, n, hstep⟩ := next q es hn.2 hok t ht hidle
      refine ⟨nofun, n, fun e => ?_⟩
      rw [hstep, hc]
      rfl

/-- A change that has no part in the schedule. -/
theorem resumes_change {f : State → State} (hf : Steady f) (hpins : ∀ s, (f s).pins = s.pins)
    (hc : ∀ s, c s = k (f s)) (next : Resumes k (f s)) : Resumes c s := by
  intro hn hok t ht hidle
  obtain ⟨htpins, n, hstep⟩ := next (by rwa [NoReset, hf.env_eq]) (by rwa [hf.cfg]) t (hc s ▸ ht) hidle
  rw [hf.env_eq, hpins] at htpins
  refine ⟨htpins, n, fun e => ?_⟩
  rw [hstep, hf.env_eq, hc, hf.env]

theorem resumes_act {f : State → State} (hf : Steady f) (hpins : ∀ s, (f s).pins = s.pins)
    (next : ∀ s, Resumes k s) : Resumes (fun s => (act f s).bind k) s :=
  resumes_tick (fun s => act_bind f k s) fun _ _ => resumes_change hf hpins (fun _ => rfl) (next _)

theorem resumes_choose {ι : Type} {p : State → ι} (hp : ∀ s e, p (s.scheduled e) = p s) {d : ι → State → Flow State}
    (hc : ∀ s, c s = d (p s) s) (next : Resumes (d (p s)) s) : Resumes c s := by
  intro hn hok t ht hidle
  obtain ⟨htpins, n, hstep⟩ := next hn hok t (hc s ▸ ht) hidle
  refine ⟨htpins, n, fun e => ?_⟩
  rw [hstep, hc, hp]

theorem flow_met (w : WaitKind) (ph : Phase) (q : Pins) (e : List EnvEvent) (s : State) (x : Spun) :
    x.flow w ph (s.met q e) = x.flow w ph s := by
  cases x <;> rfl

theorem spinUntil_scheduled (w : WaitKind) (ph : Phase) (s : State) (e : List EnvEvent) :
    spinUntil w ph (s.scheduled e) = (spun w s.pins e).flow w ph s := by
  rw [spinUntil_eq]
  exact flow_met w ph s.pins e s _

/-- A wait that the sequence is left in is the wait that the next step goes on from; one that ends over held lines takes
one entry more. -/
theorem resumes_wait {w : WaitKind} {ph : Phase} (hc : ∀ s, c s = (spinUntil w ph s).bind k)
    (resume : ∀ q e, s.cfg.ok = true → step (writePhase ph (s.met q e)) = (c (writePhase ph (s.met q e))).next)
    (hk : ∀ q e, k (writePhase ph (State.record (.waited w) (s.met q e))) = k (State.record (.waited w) (s.met q e)))
    (next : ∀ q e, Resumes k (State.record (.waited w) (s.met q e))) :
    Resumes c s := by
  intro hn hok t ht hidle
  rw [hc, spinUntil_eq] at ht
  rcases spun_of_noReset (w := w) (q := s.pins) hn with ⟨r, e, hspun, he⟩ | ⟨r, hspun⟩
  · rw [hspun] at ht
    obtain ⟨htpins, n, hstep⟩ := next r e he hok t ht hidle
    rcases spun_append_of_ended hspun with ⟨hnil, rfl, rfl, hr⟩ | ⟨hne, hall⟩
    · have htr : t.pins = s.pins := htpins rfl
      refine ⟨fun _ => htr, n + 1, fun a => ?_⟩
      rw [hstep, hnil, htr, hc, spinUntil_scheduled, List.replicate_succ, List.nil_append, List.cons_append, spun,
        if_pos hr]
      rfl
    · refine ⟨fun hnil => absurd hnil hne, n, fun a => ?_⟩
      rw [hstep, hc, spinUntil_scheduled, List.append_assoc s.env, hall, ← List.append_assoc]
      rfl
  · rw [hspun] at ht
    obtain ⟨hnil, hall⟩ := spun_append_of_stuck hspun
    obtain rfl : writePhase ph (s.met r []) = t := ht
    refine ⟨hnil, 0, fun a => ?_⟩
    show step (writePhase ph (s.met r a)) = _
    rw [resume r a hok, hc, hc, spinUntil_bind_writePhase (s := s.met r a) hk, spinUntil_scheduled, List.replicate_zero,
      List.append_nil, hall, spinUntil_eq, flow_met]
    rfl

/-- A sequence that comes to its end in `Idle` is not left in a wait. -/
theorem resumes_of_idle (h : NoReset s → (c s).state.phase = .idle) : Resumes c s := fun hn _ _ ht hidle =>
  absurd (ht ▸ h hn) hidle

theorem resumeStatus_resumes (p : StatusPos) (s : State) : Resumes (resumeStatus p) s := by
  have hreturn : ∀ s, Resumes statusReturn s := fun s => resumes_of_idle fun hn => by
    rw [statusReturn_does s (noReset_take hn 4)]
    rfl
  have hdeasserted : ∀ s, Resumes (resumeStatus .deasserted) s := fun s =>
    resumes_wait (fun _ => rfl) (fun q e hok => step_sendingStatus (s := writePhase _ (s.met q e)) hok rfl)
      (fun _ _ => statusReturn_writePhase _ _) fun _ _ => hreturn _
  cases p with
  | asserted =>
    exact resumes_wait (k := resumeStatus .deasserted) (fun _ => bind_assoc _ _ _)
      (fun q e hok => step_sendingStatus (s := writePhase _ (s.met q e)) hok rfl)
      (fun _ _ => spinUntil_bind_writePhase fun _ _ => statusReturn_writePhase _ _) fun _ _ => hdeasserted _
  | deasserted => exact hdeasserted s

/-- The changes of the five steps before the wait of the handshake. -/
theorem statusPhase_steady : Steady fun s => writePhase (.sendingStatus (statusStart s.cfg)) s :=
  { log := fun _ => List.suffix_refl _ }

theorem writeLed_inert (b : Bool) : Inert (State.writeLed b) := { log := fun _ => List.suffix_cons _ _ }

theorem irq_inert : Inert fun s => State.record .assertedIrq { s with irqOut := .asserted } :=
  { log := fun _ => List.suffix_cons _ _ }

theorem sendStatus_resumes (code : Byte) (s : State) : Resumes (sendStatus code) s :=
  resumes_act statusPhase_steady (fun _ => rfl) fun _ =>
  resumes_act (writeLed_inert false).toSteady (fun _ => rfl) fun _ =>
  resumes_act (writeGuard_inert true).toSteady (fun _ => rfl) fun _ =>
  resumes_act (driven_inert code).toSteady (fun _ => rfl) fun _ =>
  resumes_act irq_inert.toSteady (fun _ => rfl) fun s =>
  resumes_choose (p := fun s => statusStart s.cfg) (fun _ _ => rfl) statusWait_eq (resumeStatus_resumes _ s)

theorem Command.resumes {g : Prop} (h : Command g c s) : Resumes c s := by
  induction h with
  | status => exact sendStatus_resumes _ _
  | @step ι p f k s hp hf next ih =>
    exact resumes_tick (k := fun s => k (p s) (f s)) (fun _ => rfl) fun q e =>
      resumes_choose (d := fun v s => k v (f s)) hp.env (fun _ => rfl) <|
      resumes_change hf.toSteady hf.pins (fun _ => rfl) (ih q e)
  | raise next ih => exact resumes_change (record_inert _).toSteady (record_inert _).pins (fun _ => rfl) ih
  | @choose ι p k s hp next ih => exact resumes_choose (d := k) hp.env (fun _ => rfl) ih
  | wait hg hpos resume next ih =>
    exact resumes_wait (fun _ => rfl) resume (fun q e => (next q e).writePhase _) ih

/-- Settles O30: each command is a tree of steps, choices and waits, and goes on from the wait it is left in. -/
theorem waitsResumeTheCommand : Obligations.WaitsResumeTheCommand := by
  intro s t i hok hn ht hidle
  obtain ⟨c, hc, hcommand⟩ := exec_command (g := False) i s
  obtain ⟨_, n, hstep⟩ := hcommand.resumes hn hok t (Host.Outcome.next.inj ((hc s).symm.trans ht)) hidle
  exact ⟨n, fun e => (hstep e).trans (hc _).symm⟩

end Sys2Proof.Machine
end

section
/-! The watchdog reset at any step (R336, R371), and the parameters (R38). A sequence of atomic steps that is cut short
where a move of the peer would have been its last entry has done what it does up to there; and no step, nor the reset,
writes the configuration. -/

namespace Sys2Proof.Machine

variable {c k : State → Flow State} {s : State}

/-! ## Sequences that a reset can cut short -/

/-- The sequence keeps the configuration and only adds to the record; and if a schedule of moves is just used up by it,
then a reset in place of the last move cuts it short, with what is recorded up to there. -/
structure Interruptible (c : State → Flow State) (s : State) : Prop where
  cfg : ∀ e, (c (s.scheduled e)).state.cfg = s.cfg
  log : ∀ e, s.log <:+ (c (s.scheduled e)).state.log
  cut : ∀ (ps : List Pins) (x : Pins) (es : List EnvEvent),
    (c (s.scheduled (ps.map .peer ++ [.peer x]))).state.env = [] →
    ∃ v, c (s.scheduled (ps.map .peer ++ .watchdog :: es)) = .halt (watchdogReset v) ∧ v.env = es ∧ v.cfg = s.cfg ∧
      s.log <:+ v.log ∧ v.log <:+ (c (s.scheduled (ps.map .peer ++ [.peer x]))).state.log ∧ v.replies <:+ s.replies

theorem interruptible_tick (hc : ∀ s, c s = (tick s).bind k) (next : ∀ q e, Interruptible k (s.met q e)) :
    Interruptible c s := by
  have hnil : c (s.scheduled []) = k (s.met s.pins []) := hc _
  have hpeer : ∀ q e, c (s.scheduled (.peer q :: e)) = k (s.met q e) := fun _ _ => hc _
  have hreset : ∀ e, c (s.scheduled (.watchdog :: e)) = .halt (watchdogReset (s.met s.pins e)) := fun _ => hc _
  have hkept : ∀ e, (c (s.scheduled e)).state.cfg = s.cfg ∧ s.log <:+ (c (s.scheduled e)).state.log := fun e => by
    rcases e with _ | ⟨q | _, e⟩
    · rw [hnil]
      exact ⟨(next s.pins []).cfg [], (next s.pins []).log []⟩
    · rw [hpeer]
      exact ⟨(next q e).cfg e, (next q e).log e⟩
    · rw [hreset]
      exact ⟨rfl, List.suffix_cons _ _⟩
  refine ⟨fun e => (hkept e).1, fun e => (hkept e).2, fun ps x es hend => ?_⟩
  cases ps with
  | nil => exact ⟨_, hreset es, rfl, rfl, List.suffix_refl _, (hkept _).2, List.suffix_refl _⟩
  | cons p ps =>
    rw [List.map_cons, List.cons_append, hpeer] at hend ⊢
    rw [List.cons_append, hpeer]
    exact (next p []).cut ps x es hend

theorem interruptible_change {f : State → State} (hf : Steady f) (hc : ∀ s, c s = k (f s))
    (next : Interruptible k (f s)) : Interruptible c s := by
  have heq : ∀ e, c (s.scheduled e) = k ((f s).scheduled e) := fun e => by rw [hc, hf.env]
  refine ⟨fun e => ?_, fun e => ?_, fun ps x es hend => ?_⟩
  · rw [heq, next.cfg, hf.cfg]
  · rw [heq]
    exact (hf.log s).trans (next.log e)
  · rw [heq] at hend ⊢
    obtain ⟨v, hv, henv, hcfg, hlog, hend, hreplies⟩ := next.cut ps x es hend
    rw [heq]
    exact ⟨v, hv, henv, hcfg.trans (hf.cfg s), (hf.log s).trans hlog, hend, hreplies.trans (hf.replies s)⟩

theorem interruptible_choose {ι : Type} {p : State → ι} (hp : ∀ s e, p (s.scheduled e) = p s)
    {d : ι → State → Flow State} (hc : ∀ s, c s = d (p s) s) (next : Interruptible (d (p s)) s) :
    Interruptible c s := by
  have heq : ∀ e, c (s.scheduled e) = d (p s) (s.scheduled e) := fun e => by rw [hc, hp]
  refine ⟨fun e => ?_, fun e => ?_, fun ps x es hend => ?_⟩
  · rw [heq, next.cfg]
  · rw [heq]
    exact next.log e
  · rw [heq] at hend ⊢
    rw [heq]
    exact next.cut ps x es hend

/-- A sequence without an atomic step leaves the schedule as it is. -/
theorem interruptible_done {f : State → State} (hf : Steady f) (hc : ∀ s, c s = .done (f s)) : Interruptible c s := by
  have heq : ∀ e, c (s.scheduled e) = .done ((f s).scheduled e) := fun e => by rw [hc, hf.env]
  refine ⟨fun e => ?_, fun e => ?_, fun ps x es hend => ?_⟩
  · rw [heq]
    exact hf.cfg s
  · rw [heq]
    exact hf.log s
  · rw [heq] at hend
    exact absurd hend (List.append_ne_nil_of_right_ne_nil _ (List.cons_ne_nil _ _))

theorem interruptible_congr {d : State → Flow State} (h : Interruptible d s) (hcd : ∀ s, c s = d s) :
    Interruptible c s :=
  (funext hcd : c = d) ▸ h

/-- A wait over moves of the peer ends among them whatever comes after, or is over what comes after. -/
theorem spun_moves (w : WaitKind) (q : Pins) (ps : List Pins) :
    (∃ (r : Pins) (rs : List Pins), ∀ a, spun w q (ps.map .peer ++ a) = .ended r (rs.map .peer ++ a)) ∨
      ∃ r, ∀ a, spun w q (ps.map .peer ++ a) = spun w r a := by
  induction ps generalizing q with
  | nil => exact .inr ⟨q, fun _ => rfl⟩
  | cons p ps ih =>
    simp only [List.map_cons, List.cons_append, spun]
    split
    · exact .inl ⟨p, ps, fun _ => rfl⟩
    · exact ih p

theorem interruptible_wait {w : WaitKind} {ph : Phase} (hc : ∀ s, c s = (spinUntil w ph s).bind k)
    (next : ∀ q e, Interruptible k (State.record (.waited w) (s.met q e))) : Interruptible c s := by
  have heq : ∀ e, c (s.scheduled e) = ((spun w s.pins e).flow w ph s).bind k := fun e => by
    rw [hc, spinUntil_scheduled]
  have hkept : ∀ e, (c (s.scheduled e)).state.cfg = s.cfg ∧ s.log <:+ (c (s.scheduled e)).state.log := fun e => by
    rw [heq]
    cases spun w s.pins e with
    | ended r a => exact ⟨(next r a).cfg a, (List.suffix_cons _ _).trans ((next r a).log a)⟩
    | stuck r => exact ⟨rfl, List.suffix_refl _⟩
    | reset r a => exact ⟨rfl, List.suffix_cons _ _⟩
  refine ⟨fun e => (hkept e).1, fun e => (hkept e).2, fun ps x es hend => ?_⟩
  rcases spun_moves w s.pins ps with ⟨r, rs, hall⟩ | ⟨r, hall⟩
  · rw [heq, hall] at hend ⊢
    obtain ⟨v, hv, henv, hcfg, hlog, hend, hreplies⟩ := (next r []).cut rs x es hend
    rw [heq, hall]
    exact ⟨v, hv, henv, hcfg, (List.suffix_cons _ _).trans hlog, hend, hreplies⟩
  · refine ⟨s.met r es, ?_, rfl, rfl, List.suffix_refl _, (hkept _).2, List.suffix_refl _⟩
    rw [heq, hall]
    rfl

theorem interruptible_act {f : State → State} (hf : Steady f) (next : ∀ s, Interruptible k s) :
    Interruptible (fun s => (act f s).bind k) s :=
  interruptible_tick (fun s => act_bind f k s) fun _ _ => interruptible_change hf (fun _ => rfl) (next _)

theorem interruptible_last {f : State → State} (hf : Steady f) : Interruptible (act f) s :=
  interruptible_tick (fun _ => rfl) fun _ _ => interruptible_done hf fun _ => rfl

/-! ## The status and the commands -/

theorem writePhase_steady (ph : Phase) : Steady (writePhase ph) := { log := fun _ => List.suffix_refl _ }

theorem writeStatusDone_steady (b : Bool) : Steady (State.writeStatusDone b) := { log := fun _ => List.suffix_refl _ }

theorem resumeStatus_interruptible (p : StatusPos) (s : State) : Interruptible (resumeStatus p) s := by
  have hreturn : ∀ s, Interruptible statusReturn s := fun s =>
    interruptible_act (releaseLines_inert .all).toSteady fun _ =>
    interruptible_act (writeGuard_inert false).toSteady fun _ =>
    interruptible_act (writeStatusDone_steady true) fun _ => interruptible_last (writePhase_steady .idle)
  have hdeasserted : ∀ s, Interruptible (resumeStatus .deasserted) s := fun s =>
    interruptible_wait (fun _ => rfl) fun _ _ => hreturn _
  cases p with
  | asserted =>
    exact interruptible_wait (k := resumeStatus .deasserted) (fun _ => bind_assoc _ _ _) fun _ _ => hdeasserted _
  | deasserted => exact hdeasserted s

theorem sendStatus_interruptible (code : Byte) (s : State) : Interruptible (sendStatus code) s :=
  interruptible_act statusPhase_steady fun _ =>
  interruptible_act (writeLed_inert false).toSteady fun _ =>
  interruptible_act (writeGuard_inert true).toSteady fun _ =>
  interruptible_act (driven_inert code).toSteady fun _ =>
  interruptible_act irq_inert.toSteady fun s =>
  interruptible_choose (p := fun s => statusStart s.cfg) (fun _ _ => rfl) statusWait_eq
    (resumeStatus_interruptible _ s)

theorem Command.interruptible {g : Prop} (h : Command g c s) : Interruptible c s := by
  induction h with
  | status => exact sendStatus_interruptible _ _
  | @step ι p f k s hp hf next ih =>
    exact interruptible_tick (k := fun s => k (p s) (f s)) (fun _ => rfl) fun q e =>
      interruptible_choose (d := fun v s => k v (f s)) hp.env (fun _ => rfl) <|
      interruptible_change hf.toSteady (fun _ => rfl) (ih q e)
  | raise next ih => exact interruptible_change (record_inert _).toSteady (fun _ => rfl) ih
  | @choose ι p k s hp next ih => exact interruptible_choose (d := k) hp.env (fun _ => rfl) ih
  | wait hg hpos resume next ih => exact interruptible_wait (fun _ => rfl) ih

/-! ## Reception -/

/-- A call of the collaborator. -/
theorem interruptible_call {α : Type} {F : CollReply → State → α × State} {k : α × State → Flow State}
    (hp : ∀ s e, (F (nextReply (s.scheduled e)) (popReply (s.scheduled e))).1 = (F (nextReply s) (popReply s)).1)
    (hf : Steady fun s => (F (nextReply s) (popReply s)).2) (next : ∀ a s, Interruptible (fun s => k (a, s)) s) :
    Interruptible (fun s => (collCall F s).bind k) s :=
  interruptible_tick (k := fun s => k (F (nextReply s) (popReply s))) (fun _ => bind_assoc _ _ _) fun _ _ =>
  interruptible_choose (d := fun a s => k (a, (F (nextReply s) (popReply s)).2)) hp (fun _ => rfl) <|
  interruptible_change (k := fun s => k (_, s)) hf (fun _ => rfl) (next _ _)

theorem interruptible_initDevice {k : Bool × State → Flow State} (next : ∀ ok s, Interruptible (fun s => k (ok, s)) s) :
    Interruptible (fun s => (initDevice s).bind k) s := by
  have hready : ∀ ok s, Interruptible (fun s => (setReady ok s).bind k) s := fun ok s =>
    interruptible_tick (k := fun s => k (ok, State.writeReady ok s))
      (fun s => by rw [setReady, bind_assoc, act_bind]; rfl)
      fun _ _ => interruptible_change (k := fun s => k (ok, s)) (writeReady_inert ok).toSteady (fun _ => rfl)
        (next ok _)
  have hcapacity : ∀ n s, Interruptible (fun s => ((act (writeCapacity n) s).bind (setReady true)).bind k) s :=
    fun n s => interruptible_tick (k := fun s => (setReady true (writeCapacity n s)).bind k)
      (fun s => by rw [bind_assoc, act_bind])
      fun _ _ => interruptible_change (k := fun s => (setReady true s).bind k) (writeCapacity_inert n).toSteady
        (fun _ => rfl) (hready true _)
  have hinit : Interruptible (fun s => (collInit s).bind fun (ok, s) => Flow.bind (if ok then
      (collCapacity s).bind fun (n, s) => (act (writeCapacity n) s).bind (setReady true)
      else setReady false s) k) s := by
    refine interruptible_call (fun _ _ => rfl)
      { log := fun _ => List.suffix_cons _ _, replies := fun s => s.replies.tail_suffix } fun ok s => ?_
    cases ok
    · exact hready false s
    · have hcall : Interruptible (fun s => (collCapacity s).bind fun (n, s) =>
          ((act (writeCapacity n) s).bind (setReady true)).bind k) s :=
        interruptible_call (fun _ _ => rfl)
          { log := fun _ => List.suffix_cons _ _, replies := fun s => s.replies.tail_suffix } hcapacity
      exact interruptible_congr hcall fun _ => bind_assoc _ _ _
  exact interruptible_congr hinit fun _ => bind_assoc _ _ _

theorem bootStep_interruptible (s : State) : Interruptible bootStep s :=
  interruptible_initDevice fun _ _ => interruptible_last (writePhase_steady .idle)

theorem idleStep_interruptible (s : State) : Interruptible idleStep s := by
  refine interruptible_act (record_inert .wdgService).toSteady fun s => ?_
  refine interruptible_tick (k := fun s => if s.pins.cs = .asserted ∧ s.pins.a1 = .asserted
    then act (writePhase .addressMatch) (State.record (.sampledLines s.pins.cs s.pins.a1) s)
    else .done (writePhase .idle (State.record (.sampledLines s.pins.cs s.pins.a1) s))) (fun s => by
      rw [sampleLines, bind_assoc]
      rfl) fun q e => ?_
  refine interruptible_choose (p := fun s => (s.pins.cs, s.pins.a1))
    (d := fun l s => if l.1 = .asserted ∧ l.2 = .asserted
      then act (writePhase .addressMatch) (State.record (.sampledLines l.1 l.2) s)
      else .done (writePhase .idle (State.record (.sampledLines l.1 l.2) s))) (fun _ _ => rfl) (fun _ => rfl) ?_
  refine interruptible_change (k := fun s => if q.cs = .asserted ∧ q.a1 = .asserted
    then act (writePhase .addressMatch) s else .done (writePhase .idle s)) (record_inert _).toSteady (fun _ => rfl) ?_
  split
  · exact interruptible_last (writePhase_steady _)
  · exact interruptible_done (writePhase_steady .idle) fun _ => rfl

theorem interruptible_sample {k : Byte × State → Flow State} (next : ∀ v s, Interruptible (fun s => k (v, s)) s) :
    Interruptible (fun s => (sampleData s).bind k) s :=
  interruptible_tick (sampleData_bind k) fun _ _ =>
  interruptible_choose (p := fun s => lineByte s.dOut s.pins.data s.draws) (d := fun v s => k (v, sampled s))
    (fun _ _ => rfl) (fun _ => rfl) <|
  interruptible_change (k := fun s => k (_, s)) sampled_inert.toSteady (fun _ => rfl) (next _ _)

theorem writeBi_steady (i : Fin 6) : Steady (writeBi i) := { log := fun _ => List.suffix_refl _ }

theorem writeFrame_steady (i : Fin 6) (v : Byte) : Steady (writeFrame i v) := { log := fun _ => List.suffix_refl _ }

theorem addressMatchStep_interruptible (s : State) : Interruptible addressMatchStep s := by
  refine interruptible_sample fun raw s => ?_
  refine interruptible_choose (p := fun s => s.cfg.deviceId) (d := fun i s => if idField raw = i
    then (act (writeFrame 0 (storedOpcode raw)) s).bind fun s =>
      (act (writePhase (.receivingBytes false)) s).bind fun s =>
      (setGuard true s).bind fun s => (setLed true s).bind (act (writeBi 1))
    else act (writePhase .idle) s) (fun _ _ => rfl) (fun _ => rfl) ?_
  split
  · exact interruptible_act (writeFrame_steady 0 _) fun _ =>
      interruptible_act (writePhase_steady _) fun _ =>
      interruptible_act (writeGuard_inert true).toSteady fun _ =>
      interruptible_act (writeLed_inert true).toSteady fun _ => interruptible_last (writeBi_steady 1)
  · exact interruptible_last (writePhase_steady .idle)

theorem nextByte_interruptible (s : State) : Interruptible nextByte s := by
  refine interruptible_choose (p := fun s => s.bi) (d := fun i s => if i = 5 then act (writePhase .complete) s
    else act (fun s => writePhase (.receivingBytes false) (writeBi (s.bi + 1) s)) s) (fun _ _ => rfl) (fun _ => rfl) ?_
  split
  · exact interruptible_last (writePhase_steady .complete)
  · exact interruptible_last { log := fun _ => List.suffix_refl _ }

theorem receiveByteStep_interruptible (waiting : Bool) (s : State) : Interruptible (receiveByteStep waiting) s := by
  have hwaiting : ∀ s, Interruptible (receiveByteStep true) s := fun s =>
    interruptible_wait (fun _ => rfl) fun _ _ =>
    interruptible_act (releaseLines_inert .irqOnly).toSteady fun _ =>
    interruptible_sample fun v _ =>
    interruptible_act (f := fun s => writeFrame s.bi v s) { log := fun _ => List.suffix_refl _ } nextByte_interruptible
  cases waiting
  · exact interruptible_act irq_inert.toSteady hwaiting
  · exact hwaiting s

theorem completeStep_interruptible (s : State) : Interruptible completeStep s :=
  interruptible_act (writeGuard_inert false).toSteady fun _ =>
  interruptible_act (writeStatusDone_steady false) fun _ => interruptible_last (writePhase_steady _)

/-! ## A reset before the next atomic step -/

/-- With a reset scheduled next, the sequence does nothing before it; it may record an error that was to be answered. -/
def YieldsToReset (c : State → Flow State) (s : State) : Prop :=
  ∀ es, ∃ tr : List Event, (∀ e ∈ tr, ∃ k, e = .raised k) ∧
    c (s.scheduled (.watchdog :: es)) = .halt (watchdogReset { s with env := es, log := tr ++ s.log })

theorem yieldsToReset_tick (hc : ∀ s, c s = (tick s).bind k) : YieldsToReset c s := fun es => by
  refine ⟨[], by simp, ?_⟩
  rw [hc]
  rfl

theorem yieldsToReset_wait {w : WaitKind} {ph : Phase} (hc : ∀ s, c s = (spinUntil w ph s).bind k) :
    YieldsToReset c s := fun es => by
  refine ⟨[], by simp, ?_⟩
  rw [hc, spinUntil_scheduled]
  rfl

theorem sendStatus_yieldsToReset (code : Byte) (s : State) : YieldsToReset (sendStatus code) s :=
  yieldsToReset_tick fun s => act_bind _ _ s

theorem Command.yieldsToReset {g : Prop} (h : Command g c s) : YieldsToReset c s := by
  induction h with
  | status => exact sendStatus_yieldsToReset _ _
  | step hp hf next ih => exact yieldsToReset_tick fun _ => rfl
  | @raise e k s next ih =>
    intro es
    obtain ⟨tr, htr, hreset⟩ := ih es
    refine ⟨tr ++ [.raised e], fun x hx => ?_, hreset.trans ?_⟩
    · rcases List.mem_append.1 hx with hx | hx
      · exact htr x hx
      · exact ⟨e, List.mem_singleton.1 hx⟩
    · rw [List.append_assoc]
      rfl
  | @choose ι p k s hp next ih =>
    intro es
    obtain ⟨tr, htr, hreset⟩ := ih es
    refine ⟨tr, htr, Eq.trans ?_ hreset⟩
    show k (p _) _ = _
    rw [hp.env]
  | wait hg hpos resume next ih => exact yieldsToReset_wait fun _ => rfl

theorem bootStep_yieldsToReset (s : State) : YieldsToReset bootStep s :=
  yieldsToReset_tick fun s => by rw [bootStep, initDevice, collInit, collCall, bind_assoc, bind_assoc]

theorem receiveByteStep_yieldsToReset (waiting : Bool) (s : State) : YieldsToReset (receiveByteStep waiting) s := by
  cases waiting
  · exact yieldsToReset_tick fun s => act_bind _ _ s
  · exact yieldsToReset_wait fun _ => rfl

theorem resumeStatus_yieldsToReset (p : StatusPos) (s : State) : YieldsToReset (resumeStatus p) s := by
  cases p
  · exact yieldsToReset_wait fun _ => bind_assoc _ _ _
  · exact yieldsToReset_wait fun _ => rfl

/-! ## One step -/

/-- What a reset does to a step holds of the sequence that the step is. -/
theorem step_sequence {s : State} (hok : s.cfg.ok = true)
    (hlen : ∀ i n next, s.phase = .dispatching (.sendAck i n next) → n ≤ bufCap) :
    ∃ c : State → Flow State, (∀ e, step (s.scheduled e) = (c (s.scheduled e)).next) ∧ Interruptible c s ∧
      YieldsToReset c s := by
  cases hp : s.phase with
  | boot =>
    exact ⟨_, fun e => step_boot (s := s.scheduled e) hok hp, bootStep_interruptible s, bootStep_yieldsToReset s⟩
  | idle =>
    exact ⟨_, fun e => step_idle (s := s.scheduled e) hok hp, idleStep_interruptible s,
      yieldsToReset_tick fun s => act_bind _ _ s⟩
  | addressMatch =>
    exact ⟨_, fun e => step_addressMatch (s := s.scheduled e) hok hp, addressMatchStep_interruptible s,
      yieldsToReset_tick (sampleData_bind _)⟩
  | receivingBytes w =>
    exact ⟨_, fun e => step_receivingBytes (s := s.scheduled e) hok hp, receiveByteStep_interruptible w s,
      receiveByteStep_yieldsToReset w s⟩
  | complete =>
    exact ⟨_, fun e => step_complete (s := s.scheduled e) hok hp, completeStep_interruptible s,
      yieldsToReset_tick fun s => act_bind _ _ s⟩
  | sendingStatus p =>
    exact ⟨_, fun e => step_sendingStatus (s := s.scheduled e) hok hp, resumeStatus_interruptible p s,
      resumeStatus_yieldsToReset p s⟩
  | dispatching pos =>
    cases pos with
    | start =>
      obtain ⟨c, hc, hcommand⟩ := exec_command (g := False) (decodeFrame s.cfg s.cf) s
      exact ⟨c, fun e => (step_start (s := s.scheduled e) hok hp).trans (hc _), hcommand.interruptible,
        hcommand.yieldsToReset⟩
    | sendAck i n next =>
      have hcommand := resumeSend_command i next (hlen i n next hp) s
      exact ⟨_, fun e => (step_sendAck (s := s.scheduled e) hok hp).trans (resumeSend_eq next (hlen i n next hp) _),
        hcommand.interruptible, hcommand.yieldsToReset⟩
    | recvAck i =>
      have hcommand := resumeReceive_command i s
      exact ⟨_, fun e => step_recvAck (s := s.scheduled e) hok hp, hcommand.interruptible, hcommand.yieldsToReset⟩

/-- A step that answers a next state is not in a `Send` of more than the buffer. -/
theorem le_bufCap_of_step {s t : State} (ht : step s = .next t) {i n : Nat} {next : AfterSend}
    (hp : s.phase = .dispatching (.sendAck i n next)) : n ≤ bufCap := by
  by_contra hn
  rw [step_sendAck (ok_of_step ht) hp, resumeSend, if_neg hn] at ht
  cases ht

/-- Settles O58: no atomic step, and no reset, writes the configuration. -/
theorem stepKeepsTheConfiguration : Obligations.StepKeepsTheConfiguration := by
  intro s t ht
  obtain ⟨c, hc, hseq, _⟩ := step_sequence (ok_of_step ht) fun i n next hp => le_bufCap_of_step ht hp
  have hstep : step s = (c s).next := hc s.env
  obtain rfl : (c s).state = t := Host.Outcome.next.inj (hstep.symm.trans ht)
  exact hseq.cfg s.env

/-- Settles O53: a reset before the next atomic step comes before anything is done; one that comes later cuts the
sequence short. -/
theorem watchdogResetsFromAnyPhase : Obligations.WatchdogResetsFromAnyPhase := by
  refine ⟨fun s es hok henv hlen => ?_, fun s u ps x es hok hu hend => ?_⟩
  · obtain ⟨c, hc, _, hyields⟩ := step_sequence hok hlen
    obtain ⟨tr, htr, hreset⟩ := hyields es
    have hs : s.scheduled (.watchdog :: es) = s := by rw [← henv]; rfl
    have hstep := hc (.watchdog :: es)
    rw [hreset, hs] at hstep
    exact ⟨_, tr, hstep, ⟨rfl, rfl, rfl, rfl, rfl, rfl, rfl, rfl, rfl⟩, htr, rfl, rfl, rfl⟩
  · have hlen : ∀ i n next, s.phase = .dispatching (.sendAck i n next) → n ≤ bufCap := fun i n next hp =>
      le_bufCap_of_step hu hp
    obtain ⟨c, hc, hseq, _⟩ := step_sequence hok hlen
    have hstep : step (s.scheduled (ps.map .peer ++ [.peer x])) = .next u := hu
    rw [hc] at hstep
    obtain rfl := Host.Outcome.next.inj hstep
    obtain ⟨v, hv, henv, hcfg, hlog, hend, hreplies⟩ := hseq.cut ps x es hend
    refine ⟨watchdogReset v, v.log, (hc _).trans (congrArg Flow.next hv), ?_, hlog, hend, henv, hreplies⟩
    exact ⟨congrArg (fun c : Config => if c.bootInit then Phase.boot else .idle) hcfg, rfl, rfl, rfl, rfl, rfl, rfl,
      hcfg, rfl⟩

end Sys2Proof.Machine
end

section
/-! A command under `EDGE` (R193). With a peer that acknowledges and keeps CS deasserted a command comes to its status
as it does under `LEVEL`: nothing before the status looks at the form of the wait. Under `EDGE` it is then left in the
first half of the wait, and ends when CS has been asserted and deasserted. -/

namespace Sys2Proof.Machine

/-! ## A peer that acknowledges and keeps CS deasserted -/

/-- No reset is scheduled, ACK comes to rest asserted, and CS is deasserted now and in every move. -/
structure Calm (q : Pins) (es : List EnvEvent) : Prop where
  noReset : EnvEvent.watchdog ∉ es
  ack : (restPins q es).ack = .asserted
  now : q.cs = .deasserted
  moves : ∀ p, EnvEvent.peer p ∈ es → p.cs = .deasserted

/-- What comes next is a move to lines that are calm too. -/
theorem Calm.tail {q : Pins} {x : EnvEvent} {es : List EnvEvent} (h : Calm q (x :: es)) :
    ∃ p, x = .peer p ∧ Calm p es := by
  cases x with
  | watchdog => exact absurd List.mem_cons_self h.noReset
  | peer p =>
    exact ⟨p, rfl, fun hm => h.noReset (List.mem_cons_of_mem _ hm), h.ack, h.moves p List.mem_cons_self,
      fun r hr => h.moves r (List.mem_cons_of_mem _ hr)⟩

theorem Calm.moved {q : Pins} {es : List EnvEvent} (h : Calm q es) (n : Nat) :
    Calm (restPins q (es.take n)) (es.drop n) := by
  induction n generalizing q es with
  | zero => exact h
  | succ n ih =>
    cases es with
    | nil => exact h
    | cons x es =>
      obtain ⟨p, rfl, hp⟩ := h.tail
      exact ih hp

theorem Calm.rest {q : Pins} {es : List EnvEvent} (h : Calm q es) : (restPins q es).cs = .deasserted := by
  have hrest := (h.moved es.length).now
  rwa [List.take_length] at hrest

/-- The acknowledge wait ends, at lines that are calm too. -/
theorem Calm.acknowledged {q : Pins} {es : List EnvEvent} (h : Calm q es) :
    ∃ r e, spun .ackAsserted q es = .ended r e ∧ Calm r e := by
  induction es generalizing q with
  | nil => exact ⟨q, [], if_pos (ack_holds h.ack), h⟩
  | cons x es ih =>
    obtain ⟨p, rfl, hp⟩ := h.tail
    unfold spun
    split
    · exact ⟨p, es, rfl, hp⟩
    · exact ih hp

/-- The wait for CS asserted does not end. -/
theorem Calm.not_selected {q : Pins} {es : List EnvEvent} (h : Calm q es) : ∃ r, spun .csAsserted q es = .stuck r := by
  have hnot : ∀ p : Pins, p.cs = .deasserted → ¬ WaitKind.csAsserted.holds p = true := fun p hp => by
    rw [holds_csAsserted.2.2 hp]
    exact Bool.false_ne_true
  induction es generalizing q with
  | nil => exact ⟨q, if_neg (hnot q h.now)⟩
  | cons x es ih =>
    obtain ⟨p, rfl, hp⟩ := h.tail
    rw [spun, if_neg (hnot p hp.now)]
    exact ih hp

theorem Calm.tick {s : State} (h : Calm s.pins s.env) :
    ∃ q e, Machine.tick s = .done (s.met q e) ∧ Machine.tick s.underLevel = .done (s.met q e).underLevel ∧
      Calm q e := by
  cases henv : s.env with
  | nil => exact ⟨s.pins, [], tick_nil henv, tick_nil (s := s.underLevel) henv, henv ▸ h⟩
  | cons x es =>
    rw [henv] at h
    obtain ⟨p, rfl, hp⟩ := h.tail
    exact ⟨p, es, tick_peer henv, tick_peer (s := s.underLevel) henv, hp⟩

/-! ## The way to the status -/

/-- With a calm peer the sequence comes to `SendStatus` in the same state, but for the form of the status wait, under
either form, with the configuration and the frame registers as they were. -/
def ReachesStatus (c : State → Flow State) (s : State) : Prop :=
  Calm s.pins s.env → ∃ code u, (code = statusOk ∨ code = statusErr) ∧ c s = sendStatus code u ∧
    c s.underLevel = sendStatus code u.underLevel ∧ Calm u.pins u.env ∧ u.cfg = s.cfg ∧ u.cf = s.cf ∧ u.bi = s.bi ∧
    s.log <:+ u.log

theorem reachesStatus_after {c : State → Flow State} {s t : State} (h : ReachesStatus c t) (ht : Calm t.pins t.env)
    (hcfg : t.cfg = s.cfg) (hcf : t.cf = s.cf) (hbi : t.bi = s.bi) (hlog : s.log <:+ t.log) :
    ∃ code u, (code = statusOk ∨ code = statusErr) ∧ c t = sendStatus code u ∧
      c t.underLevel = sendStatus code u.underLevel ∧ Calm u.pins u.env ∧ u.cfg = s.cfg ∧ u.cf = s.cf ∧ u.bi = s.bi ∧
      s.log <:+ u.log := by
  obtain ⟨code, u, hcode, hc, hlevel, hcalm, ucfg, ucf, ubi, ulog⟩ := h ht
  exact ⟨code, u, hcode, hc, hlevel, hcalm, ucfg.trans hcfg, ucf.trans hcf, ubi.trans hbi, hlog.trans ulog⟩

theorem Command.reachesStatus {g : Prop} {c : State → Flow State} {s : State} (h : Command g c s) :
    ReachesStatus c s := by
  induction h with
  | @status code s hcode =>
    exact fun hcalm => ⟨code, s, hcode, rfl, rfl, hcalm, rfl, rfl, rfl, List.suffix_refl _⟩
  | @step ι p f k s hp hf next ih =>
    intro hcalm
    obtain ⟨q, e, htick, hlevel, hqe⟩ := hcalm.tick
    obtain ⟨hcf, hbi⟩ := hf.frame (s.met q e)
    have hfcalm : Calm (f (s.met q e)).pins (f (s.met q e)).env := by rwa [hf.pins, hf.env_eq]
    have hafter := reachesStatus_after (s := s) (ih q e) hfcalm (hf.cfg _) hcf hbi (hf.log (s.met q e))
    simp only [htick, hlevel, bind_done, hp.level, hf.level]
    exact hafter
  | raise next ih => exact fun hcalm => reachesStatus_after ih hcalm rfl rfl rfl (List.suffix_cons _ _)
  | choose hp next ih =>
    intro hcalm
    simp only [hp.level]
    exact ih hcalm
  | @wait pos k s hg hpos resume next ih =>
    intro hcalm
    obtain ⟨q, e, hspun, hqe⟩ := hcalm.acknowledged
    have hlevel : spun .ackAsserted s.underLevel.pins s.underLevel.env = .ended q e := hspun
    have hafter := reachesStatus_after (s := s) (ih q e) hqe rfl rfl rfl (List.suffix_cons _ _)
    simp only [spinUntil_eq, hspun, hlevel]
    exact hafter

/-! ## The status under `EDGE` -/

/-- With a calm peer the handshake is left in the first half of its wait. -/
theorem sendStatus_waits (code : Byte) {u : State} (hedge : u.cfg.statusWait = .edge) (h : Calm u.pins u.env) :
    ∃ r, sendStatus code u = .halt (writePhase (.sendingStatus .asserted) ((statusDriven code u).met r [])) := by
  have hstart : statusStart u.cfg = .asserted := by rw [statusStart, hedge]
  obtain ⟨r, hspun⟩ := (h.moved 5).not_selected
  refine ⟨r, ?_⟩
  rw [sendStatus_of_noReset code h.noReset, hstart, resumeStatus, bind_assoc, statusWaitAsserted, spinUntil_eq]
  show (Spun.flow _ _ _ (spun .csAsserted (restPins u.pins (u.env.take 5)) (u.env.drop 5))).bind _ = _
  rw [hspun]
  rfl

/-- The engine when a handshake under `EDGE` is over, the lines being at `d`. -/
def edgeFinished (code : Byte) (d : Pins) (u : State) : State :=
  State.after (edgeStatusTrace code)
    { u with
      phase := .idle, led := false, guard := false, dOut := .released, drqOut := .released, irqOut := .released
      statusDone := true, pins := d, env := [] }

/-- From the first half of its wait the handshake ends when CS has been asserted and deasserted. -/
theorem step_statusWait (code : Byte) {u : State} (hok : u.cfg.ok = true) (r : Pins) {a d : Pins}
    (ha : a.cs = .asserted) (hd : d.cs = .deasserted) :
    step ((writePhase (.sendingStatus .asserted) ((statusDriven code u).met r [])).scheduled [.peer a, .peer d]) =
      .next (edgeFinished code d u) := by
  have hflow : resumeStatus .asserted
      ((writePhase (.sendingStatus .asserted) ((statusDriven code u).met r [])).scheduled [.peer a, .peer d]) =
      .done (edgeFinished code d u) := by
    rw [resumeStatus, bind_assoc]
    refine spinUntil_bind_past (ws := []) rfl (by simp) (holds_csAsserted.1.2 ha) ?_
    refine spinUntil_bind_past (ws := []) rfl (by simp) (holds_csDeasserted.1.2 hd) ?_
    exact statusReturn_does _ List.not_mem_nil
  exact (step_sendingStatus (p := .asserted) (by exact hok) rfl).trans (congrArg Flow.next hflow)

/-- Settles O29: the way to the status, then the wait under either form. -/
theorem edgeCommandsEndWhenTheStatusIsRead : Obligations.EdgeCommandsEndWhenTheStatusIsRead := by
  intro s i hok hedge hn _ hack hcs hmoves
  obtain ⟨c, hc, hcommand⟩ := exec_command (g := False) i s
  obtain ⟨code, u, hcode, hsend, hlevel, hcalm, hcfg, hcf, hbi, l, hlog⟩ :=
    hcommand.reachesStatus ⟨hn, hack, hcs, hmoves⟩
  obtain ⟨r, hhalt⟩ := sendStatus_waits code (by rw [hcfg, hedge]) hcalm
  obtain ⟨v, hv, hvengine, _⟩ := sendStatus_yields code (s0 := u.underLevel)
    (tracks_self (s := u.underLevel) hcalm.noReset) rfl hcalm.rest
  have hvlog : v.log = (statusTrace code).reverse ++ u.log := (congrArg State.log hvengine :)
  have htrace : ∀ tr : List Event, (l.reverse ++ tr).reverse ++ s.log = tr.reverse ++ u.log := fun tr => by
    simp [← hlog]
  refine ⟨_, v, l.reverse, code, (hc s).trans (congrArg Flow.next (hsend.trans hhalt)),
    (hc _).trans (congrArg Flow.next (hlevel.trans hv)), hvlog.trans (htrace _).symm, hcode, rfl, rfl, rfl, rfl, rfl,
    fun a d ha hd => ⟨_, step_statusWait code (hcfg ▸ hok) r ha hd, ?_, ?_⟩⟩
  · exact ⟨rfl, rfl, rfl, rfl, rfl, rfl, rfl, hcfg, hcf, hbi⟩
  · rw [htrace, eq_of_engine hvengine, ← hcfg]
    rfl

end Sys2Proof.Machine
end
